-- ==== Sys2Proof/Word.lean ====
section
/-! DEFINITION. The words of the Wandor 216 manual: bytes, node addresses, local time, channel masks. -/

namespace Sys2Proof

/-- One byte, on air, on the SPI port or in the exchange memory. -/
abbrev Byte := BitVec 8

/-- A 16-bit node address (00_scope.md, "Addresses"). -/
abbrev Addr := BitVec 16

/-- A 32-bit local (or remote) instant in ticks of 1/32,768 s; it wraps at 2^32 (00_scope.md, "Local time"). -/
abbrev Tick := BitVec 32

/-- A local instant in sixteenths of a tick, held modulo 2^36 (00_scope.md, "Local time"). -/
abbrev Sixteenth := BitVec 36

/-- A set of channels 0 to 15, bit c for channel c (12_formats.md). -/
abbrev Mask := BitVec 16

/-- The index of one of the 127 boxes of the exchange memory (R170). -/
abbrev Box := Fin 127

end Sys2Proof
end

