-- ==== Sys2Proof/Syntax.lean ====
section
/-! DEFINITION. The commands of the Wandor 216: one constructor for each row of spec/opcode_table.json.
Every command but the two pin resets carries the local instant, in sixteenths, at which it is taken
(00_scope.md, "Now"); assumption log entry 2. -/

namespace Sys2Proof

/-- A frame delivered by the front end (R9): the received bytes without preamble and sync, the capture of the
frame start, the channel and the signal level in whole dBm (two's complement). -/
structure RxFrame where
  bytes : List Byte
  capture : Sixteenth
  channel : Fin 16
  signal : BitVec 8
deriving DecidableEq, Repr

/-- The operations and events of the part, in the order of spec/opcode_table.json. -/
inductive Instr where
  /-- POWER_ON (R162), with the level of the SUPPLY input at that moment (R39). -/
  | powerOn (supplyHigh : Bool)
  /-- RESETN (R174). -/
  | resetn
  /-- SUPPLY_LEVEL_CHANGE (R39): the SUPPLY input is now high or low. -/
  | supplyLevelChange (t : Sixteenth) (high : Bool)
  /-- SUPPLY_DEBOUNCE_END (R39). -/
  | supplyDebounceEnd (t : Sixteenth)
  /-- UNKNOWN_INSTRUCTION (R166): a first byte that is no instruction code, and how many bytes are clocked after it. -/
  | unknownInstruction (t : Sixteenth) (code : Byte) (clocked : Nat)
  /-- IDENTIFY (R168), and how many bytes are clocked after the instruction byte. -/
  | identify (t : Sixteenth) (clocked : Nat)
  /-- READ (R167): `some a` opens a transaction with the address bytes a, `none` goes on clocking the open one;
  `count` is how many data bytes are clocked out. -/
  | read (t : Sixteenth) (start : Option (BitVec 16)) (count : Nat)
  /-- READ_END_PAGE_WRITE (R175): chip select rises at the end of a READ transaction. -/
  | readEndPageWrite (t : Sixteenth)
  /-- WRITE (R167): `some a` opens a transaction with the address bytes a, `none` goes on with the open one;
  `data` are the complete data bytes. -/
  | write (t : Sixteenth) (start : Option (BitVec 16)) (data : List Byte)
  /-- WRITE_END (R172): chip select rises at the end of a WRITE transaction. -/
  | writeEnd (t : Sixteenth)
  /-- STATUS (R168), and how many bytes are clocked after the instruction byte. -/
  | status (t : Sixteenth) (clocked : Nat)
  /-- LATCH (R175). -/
  | latch (t : Sixteenth)
  /-- REARM (R178). -/
  | rearm (t : Sixteenth)
  /-- RUN (R163). -/
  | run (t : Sixteenth)
  /-- STOP (R164). -/
  | stop (t : Sixteenth)
  /-- CLEAR_FAULT (R165). -/
  | clearFault (t : Sixteenth)
  /-- RESET (R169, R174): the reset control command. -/
  | reset (t : Sixteenth)
  /-- CLEAR_FLAGS (R176). -/
  | clearFlags (t : Sixteenth)
  /-- SET_ATTENTION_MASK (R169): bits 0 to 3 enable TRIGGER, TIMEOUT, URGENT and FAULT. -/
  | setAttentionMask (t : Sixteenth) (mask : BitVec 4)
  /-- REQUEST_BADREQ (R180): the scan visits a posted box whose record is faulty as a whole. -/
  | requestBadreq (t : Sixteenth) (box : Box)
  /-- SEND (R181): the scan visits a posted box that holds a SEND. -/
  | send (t : Sixteenth) (box : Box)
  /-- SET (R183). -/
  | set (t : Sixteenth) (box : Box)
  /-- QUERY (R185). -/
  | query (t : Sixteenth) (box : Box)
  /-- PIN (R71). -/
  | pin (t : Sixteenth) (box : Box)
  /-- UNPIN (R71). -/
  | unpin (t : Sixteenth) (box : Box)
  /-- BAR (R72). -/
  | bar (t : Sixteenth) (box : Box)
  /-- UNBAR (R72). -/
  | unbar (t : Sixteenth) (box : Box)
  /-- OWN_LISTEN_WINDOW_OPEN (R12). -/
  | ownListenWindowOpen (t : Sixteenth)
  /-- FRAME_START_INDICATION (R152). -/
  | frameStartIndication (t : Sixteenth)
  /-- OWN_LISTEN_FRAME_END (R12): the own listen's response is a frame. -/
  | ownListenFrameEnd (t : Sixteenth) (f : RxFrame)
  /-- ACK_START (R13). -/
  | ackStart (t : Sixteenth)
  /-- ACK_SENT (R13). -/
  | ackSent (t : Sixteenth)
  /-- CONTINUING_FRAME_END (R19): the continuation's response is a frame. -/
  | continuingFrameEnd (t : Sixteenth) (f : RxFrame)
  /-- CONTINUING_EMPTY (R19). -/
  | continuingEmpty (t : Sixteenth)
  /-- PLAN_FREEZE (R125). -/
  | planFreeze (t : Sixteenth)
  /-- BURST_START (R129). -/
  | burstStart (t : Sixteenth)
  /-- DATA_SENT (R15). -/
  | dataSent (t : Sixteenth)
  /-- AWAITING_EMPTY (R15). -/
  | awaitingEmpty (t : Sixteenth)
  /-- TAKING_FRAME_END (R16): the ACK wait's response is a frame. -/
  | takingFrameEnd (t : Sixteenth) (f : RxFrame)
  /-- SPACING_END (R18). -/
  | spacingEnd (t : Sixteenth)
  /-- OWN_BEACON_INSTANT (R27). -/
  | ownBeaconInstant (t : Sixteenth)
  /-- BEACON_SENT (R26). -/
  | beaconSent (t : Sixteenth)
  /-- OWN_LISTEN_EMPTY (R12): the own listen's response is an empty window. -/
  | ownListenEmpty (t : Sixteenth)
  /-- SENSE_REPORT (R29): the energy measured on the channel, in dBm (two's complement). -/
  | senseReport (t : Sixteenth) (energy : BitVec 8)
  /-- EXCLUSION_HOLD_EXPIRY (R32), for one channel of the exclusion set. -/
  | exclusionHoldExpiry (t : Sixteenth) (channel : Fin 16)
  /-- REFRESH_LISTEN_OPEN (R161), for the refresh claim of one neighbor. -/
  | refreshListenOpen (t : Sixteenth) (neighbor : Addr)
  /-- REFRESH_LISTEN_END (R161): the refresh listen's response, a frame or an empty window. -/
  | refreshListenEnd (t : Sixteenth) (f : Option RxFrame)
  /-- CENSUS_INTERVAL_EXPIRY (R36). -/
  | censusIntervalExpiry (t : Sixteenth)
  /-- LISTEN_SEGMENT_START (R159). -/
  | listenSegmentStart (t : Sixteenth)
  /-- LISTEN_SEGMENT_END (R159): the segment's response, a frame or an empty window. -/
  | listenSegmentEnd (t : Sixteenth) (f : Option RxFrame)
  /-- CENSUS_END (R37). -/
  | censusEnd (t : Sixteenth)
  /-- DISCOVERY_END (R38). -/
  | discoveryEnd (t : Sixteenth)
  /-- RESET_FRONT_END_READY (R153). -/
  | resetFrontEndReady (t : Sixteenth)
  /-- OPERATION_TIMEOUT (R153). -/
  | operationTimeout (t : Sixteenth)
  /-- LATE_RESPONSE (R153). -/
  | lateResponse (t : Sixteenth)
  /-- NEIGHBOR_SWEEP (R78). -/
  | neighborSweep (t : Sixteenth)
  /-- DISCARD_DEADLINE_EXPIRY (R108), for the parked frame of one admission serial. -/
  | discardDeadlineExpiry (t : Sixteenth) (serial : Nat)
  /-- BACKOFF_EXPIRY (R135), for the frame of one admission serial. -/
  | backoffExpiry (t : Sixteenth) (serial : Nat)
  /-- REPORT_TIMER_EXPIRY (R177). -/
  | reportTimerExpiry (t : Sixteenth)
  /-- STOP_TAKES_EFFECT (R164). -/
  | stopTakesEffect (t : Sixteenth)
deriving DecidableEq, Repr

end Sys2Proof
end

