-- ==== Sys2Proof/WellFormed.lean ====
section
/-! DEFINITION. Which commands the outside can send: checks on operands, outside the machine's meaning.
`exec` is total and does not read them; they say what the front end and the host can physically present. -/

namespace Sys2Proof

/-- The port instruction codes of 12_formats.md, section 12.4. -/
def portCodes : List Byte := [0x50, 0x51, 0x52, 0x5A, 0x5C, 0x5E, 0x5F]

/-- A node address, 0x0001 to 0xFEFF (00_scope.md, "Addresses"). -/
def isNodeAddress (a : Addr) : Bool := a ≠ 0 && a.toNat < 0xFF00

/-- A received frame the front end can deliver at `t`: 1 to 110 bytes (R2; a reception lasts at most 150 ticks,
R152) and a capture that does not lie after the moment of delivery (R9). -/
def RxFrame.wf (f : RxFrame) (t : Sixteenth) : Bool :=
  1 ≤ f.bytes.length && f.bytes.length ≤ 110 && decide (0 ≤ (t - f.capture).toInt)

/-- Well-formedness of a command. -/
def Instr.wf : Instr → Bool
  | .powerOn _ => true
  | .resetn => true
  | .supplyLevelChange _ _ => true
  | .supplyDebounceEnd _ => true
  | .unknownInstruction _ code _ => !portCodes.contains code
  | .identify _ _ => true
  | .read _ _ _ => true
  | .readEndPageWrite _ => true
  | .write _ _ _ => true
  | .writeEnd _ => true
  | .status _ _ => true
  | .latch _ => true
  | .rearm _ => true
  | .run _ => true
  | .stop _ => true
  | .clearFault _ => true
  | .reset _ => true
  | .clearFlags _ => true
  | .setAttentionMask _ _ => true
  | .requestBadreq _ _ => true
  | .send _ _ => true
  | .set _ _ => true
  | .query _ _ => true
  | .pin _ _ => true
  | .unpin _ _ => true
  | .bar _ _ => true
  | .unbar _ _ => true
  | .ownListenWindowOpen _ => true
  | .frameStartIndication _ => true
  | .ownListenFrameEnd t f => f.wf t
  | .ackStart _ => true
  | .ackSent _ => true
  | .continuingFrameEnd t f => f.wf t
  | .continuingEmpty _ => true
  | .planFreeze _ => true
  | .burstStart _ => true
  | .dataSent _ => true
  | .awaitingEmpty _ => true
  | .takingFrameEnd t f => f.wf t
  | .spacingEnd _ => true
  | .ownBeaconInstant _ => true
  | .beaconSent _ => true
  | .ownListenEmpty _ => true
  | .senseReport _ _ => true
  | .exclusionHoldExpiry _ _ => true
  | .refreshListenOpen _ n => isNodeAddress n
  | .refreshListenEnd t f => f.all (·.wf t)
  | .censusIntervalExpiry _ => true
  | .listenSegmentStart _ => true
  | .listenSegmentEnd t f => f.all (·.wf t)
  | .censusEnd _ => true
  | .discoveryEnd _ => true
  | .resetFrontEndReady _ => true
  | .operationTimeout _ => true
  | .lateResponse _ => true
  | .neighborSweep _ => true
  | .discardDeadlineExpiry _ _ => true
  | .backoffExpiry _ _ => true
  | .reportTimerExpiry _ => true
  | .stopTakesEffect _ => true

end Sys2Proof
end

