-- ==== Sys2Proof/Decode.lean ====
section
/-! DEFINITION. From words to commands. The opcode table gives no row any bits, so `decodeTableWord` answers none;
the SPI port has instruction codes of its own (12_formats.md, section 12.4), which `decodePort` reads. -/

namespace Sys2Proof

/-- The command that a word of the opcode table spells. No row of spec/opcode_table.json has fixed bits or fields
(98_reader.md: n_rows_with_fixed 0, n_rows_with_fields 0), so no word spells a command (assumption log entry 4). -/
def decodeTableWord (_nbits _w : Nat) : Option Instr := none

/-- The command byte of a CONTROL transaction, taken when chip select rises (R169, 12_formats.md section 12.4). -/
def decodeControl (t : Sixteenth) (c : Byte) : Option Instr :=
  if c = 0x01 then some (.run t)
  else if c = 0x02 then some (.stop t)
  else if c = 0x03 then some (.clearFault t)
  else if c = 0x04 then some (.reset t)
  else if c = 0x05 then some (.clearFlags t)
  else if c.extractLsb' 4 4 = 1#4 then some (.setAttentionMask t (c.extractLsb' 0 4))
  else none

/-- The command that one whole SPI transaction taken at `t` amounts to, from its complete bytes in (R166 to R169),
with the end of a READ or WRITE left to its own row; none where the transaction does nothing: no complete
instruction byte, a READ or WRITE that ends within its address, a CONTROL without a complete command byte or with
a command byte that is no command code. -/
def decodePort (t : Sixteenth) (bytes : List Byte) : Option Instr :=
  match bytes with
  | [] => none
  | code :: rest =>
    if code = 0x50 then some (.identify t rest.length)
    else if code = 0x51 then
      match rest with
      | lo :: hi :: data => some (.read t (some (hi ++ lo)) data.length)
      | _ => none
    else if code = 0x52 then
      match rest with
      | lo :: hi :: data => some (.write t (some (hi ++ lo)) data)
      | _ => none
    else if code = 0x5A then some (.status t rest.length)
    else if code = 0x5C then
      match rest with
      | c :: _ => decodeControl t c
      | [] => none
    else if code = 0x5E then some (.rearm t)
    else if code = 0x5F then some (.latch t)
    else some (.unknownInstruction t code rest.length)

end Sys2Proof
end

