-- ==== Sys2Proof/Machine/State.lean ====
section
/-! DEFINITION. Every piece of state the manual gives the Wandor 216, block by block (00_scope.md, section 1.3),
the reasons a step can stop, and the state after power-on. -/

namespace Sys2Proof.Machine

/-! ## Frames (chapter 1) -/

/-- The frame classes, highest first (R7). -/
inductive FrameClass where
  | alarm | control | bulk
deriving DecidableEq, Repr

/-- The ACK kinds (R4, R17). -/
inductive AckKind where
  | go | hold | full | noroute
deriving DecidableEq, Repr

/-- A GO or HOLD indication: the own flow state (R117) and the flow field of ACKs and beacons. -/
inductive Flow where
  | go | hold
deriving DecidableEq, Repr

/-- The fields of a DATA frame (R3). -/
structure DataFrame where
  cls : FrameClass
  more : Bool
  transmitter : Addr
  nextHop : Addr
  origin : Addr
  destination : Addr
  sequence : Byte
  hopLimit : Nat
  payload : List Byte
deriving DecidableEq, Repr

/-- The fields of an ACK frame (R4). -/
structure AckFrame where
  kind : AckKind
  transmitter : Addr
  addressee : Addr
  sequence : Byte
  timingError : Int
  flow : Flow
  grant : Nat
  exponent : Nat
  epoch : Byte
deriving DecidableEq, Repr

/-- The fields of a BEACON frame (R5); the beacon exponent is 16 plus its 3-bit field. -/
structure BeaconFrame where
  transmitter : Addr
  timestamp : Tick
  number : Nat
  exponent : Nat
  beaconExponent : Nat
  phase : Nat
  halfWindow : Nat
  channel : Nat
  cost : Nat
  parent : Addr
  flow : Flow
  grant : Nat
  mask : Mask
  epoch : Byte
  pendingMask : Mask
  applyNumber : Nat
deriving DecidableEq, Repr

/-- A well-formed frame of one of the three kinds (R2). -/
inductive Frame where
  | data (d : DataFrame)
  | ack (a : AckFrame)
  | beacon (b : BeaconFrame)
deriving DecidableEq, Repr

/-! ## Settings (R184; the Request Unit) -/

/-- The phase setting: units of 512 ticks, or AUTO (R22). -/
inductive PhaseSetting where
  | auto
  | units (u : Nat)
deriving DecidableEq, Repr

/-- Every setting of the table of R184, with its default. -/
structure Settings where
  ownAddress : Addr := 0
  gateway : Bool := false
  phase : PhaseSetting := .auto
  beatExponent : Nat := 12
  halfWindow : Nat := 32
  beaconExponent : Nat := 17
  beaconChannel : Nat := 0
  channelMask : Mask := 0xFFFF
  survey : Bool := true
  busyThreshold : Int := -85
  exclusionHold : Nat := 900
  censusInterval : Nat := 600
  censusSpan : Nat := 8
  discoverySpan : Nat := 32
  supplyDebounce : Nat := 2
  slopeLimit : Nat := 1678
  fastAnchorShift : Nat := 1
  fastDriftShift : Nat := 1
  slowAnchorShift : Nat := 3
  slowDriftShift : Nat := 3
  lockThreshold : Nat := 16
  lockCount : Nat := 6
  holdoverEntry : Nat := 15
  holdoverLimit : Nat := 600
  admissionFloor : Int := -95
  probationTime : Nat := 120
  evictionAge : Nat := 1800
  holdLifetime : Nat := 2
  hopPenalty : Nat := 8
  hysteresis : Nat := 24
  unsteady : Nat := 4
  trailLifetime : Nat := 3600
  parkAlarm : Nat := 2
  parkControl : Nat := 10
  parkBulk : Nat := 30
  quickDiscard : Bool := false
  holdMark : Nat := 12
  goMark : Nat := 20
  burstLimit : Nat := 4
  perHopLimit : Nat := 3
  totalLimit : Nat := 8
  refreshAge : Nat := 10
  triggerLevel : Nat := 4
  reportTimeout : Nat := 50
  noticeMask : BitVec 6 := 0x31
  defaultHopLimit : Nat := 15
deriving DecidableEq, Repr

/-! ## Radio Port and Radio Arbiter (chapter 9) -/

/-- The four front-end operations (R152). -/
inductive OpKind where
  | listen | send | sense | resetFrontEnd
deriving DecidableEq, Repr

/-- What an outstanding operation serves (the first column of R153's table). -/
inductive Purpose where
  | ownListen | burstData | ackWait | ackSend | continuation | beaconSend | survey
  | refresh (neighbor : Addr)
  | segment
  | resetFrontEnd
deriving DecidableEq, Repr

/-- The one outstanding front-end operation (R152): what it carries and when its response falls due.
For a LISTEN `start` and `stop` are its window; for a SEND `start16` is the frame start and `bytes` the frame.
`started` is the tick of the frame-start indication. `cut` marks a LISTEN whose window a rule has shortened to
the moment of the cut. `orphan` marks a segment whose census or discovery has ended during its reception: its time
counts toward no later one (R37). -/
structure Operation where
  kind : OpKind
  purpose : Purpose
  channel : Nat
  start : Tick
  stop : Tick
  start16 : Sixteenth
  bytes : List Byte
  started : Option Tick
  due : Tick
  cut : Bool
  orphan : Bool := false
deriving DecidableEq, Repr

/-- The kinds of claims on the radio (R155). -/
inductive ClaimKind where
  | ownListen | ownBeacon | alarmTransmission | otherTransmission | refreshListen | census | discovery
deriving DecidableEq, Repr

/-- A granted claim (R155). `stop` is absent for a census or discovery. `owner` is the neighbor of a refresh
listen or transmission; `instant` is the own beat or beacon instant of an own claim, and for a refresh listen
the remote beacon instant aimed at. `overtaken` marks a refresh claim whose record has lapsed or become stale since it was
granted (R161). The hold field of R155 is what `Claim.holding` reads off the operation. -/
structure Claim where
  kind : ClaimKind
  start : Tick
  stop : Option Tick
  channel : Nat
  owner : Addr
  instant : Tick
  overtaken : Bool := false
deriving DecidableEq, Repr

/-- The engine states (R162). -/
inductive EngineState where
  | halted | discovery | running | faulted
deriving DecidableEq, Repr

/-- State of the Radio Port, the Radio Arbiter and the engine state (R152 to R165). `op` is the one
operation outstanding. `waiting` is the operation that is to follow a cut LISTEN and is not issued before that LISTEN's
report has come (R152; assumption log entry 16). -/
structure Radio where
  engine : EngineState := .halted
  stopPending : Bool := false
  faultLatch : Bool := false
  strike : Bool := false
  op : Option Operation := none
  waiting : Option Operation := none
  timeline : List Claim := []
deriving DecidableEq, Repr

/-! ## Schedule Unit (chapter 2) -/

/-- The supply modes (R39). -/
inductive SupplyMode where
  | normal | reserve
deriving DecidableEq, Repr

/-- A debounce run: its level, its start and the end its debounce time fixed at its start (R39). -/
structure DebounceRun where
  high : Bool
  start : Tick
  due : Tick
deriving DecidableEq, Repr

/-- A survey batch of one data channel (R29). -/
structure SurveyBatch where
  channel : Nat
  countdown : Nat
  tally : Nat
deriving DecidableEq, Repr

/-- A channel of the exclusion set; `holdEnd` is absent until a mask excluding it becomes current (R32). -/
structure Exclusion where
  channel : Nat
  holdEnd : Option Tick
deriving DecidableEq, Repr

/-- A standing proposal (R30). -/
structure Proposal where
  channel : Nat
  score : Nat
deriving DecidableEq, Repr

/-- A census or discovery in progress (R37, R38): its span and the listening time counted, in ticks.
`waiting` marks a discovery that begins when the reset of CLEAR FAULT is answered. -/
structure LongListen where
  discovery : Bool
  span : Nat
  counted : Nat
  waiting : Bool
deriving DecidableEq, Repr

/-- State of the Schedule Unit (R22 to R40). The phase in use is in units of 512 ticks. -/
structure Sched where
  phase : Nat := 0
  beaconExponent : Nat := 17
  beaconChannel : Nat := 0
  mask : Mask := 0xFFFF
  epoch : Byte := 0
  pendingMask : Option (Mask × Nat) := none
  batches : List SurveyBatch := []
  exclusions : List Exclusion := []
  proposals : List Proposal := []
  censusDue : Tick := 0
  long : Option LongListen := none
  supplyHigh : Bool := true
  supplyMode : SupplyMode := .normal
  debounce : Option DebounceRun := none
deriving DecidableEq, Repr

/-! ## Neighbor Unit (chapters 3 and 4) -/

/-- The tracker states (R41). -/
inductive TrackerState where
  | acquire | locked | holdover | lapsed
deriving DecidableEq, Repr

/-- A timing tracker (R41). The anchor pairs the remote instant Ar with the local instant Al.
`prevLocked` is the previous state of HOLDOVER, true for LOCKED; it is kept false outside HOLDOVER. -/
structure Tracker where
  anchor : Option (Tick × Sixteenth)
  drift : Int
  state : TrackerState
  prevLocked : Bool
  slow : Bool
  inLock : Nat
  outliers : Nat
  lastSample : Option Tick
  lapseAge : Nat
  lockLoss : Nat
deriving DecidableEq, Repr

/-- A stored pending mask with its apply number X and apply instant Ra (R58). -/
structure PendingMask where
  mask : Mask
  number : Nat
  instant : Tick
deriving DecidableEq, Repr

/-- A neighbor's schedule as last known (R58); the phase is in ticks. -/
structure Schedule where
  exponent : Nat
  phase : Nat
  halfWindow : Nat
  beaconExponent : Nat
  beaconChannel : Nat
  mask : Mask
  epoch : Byte
  pending : Option PendingMask
deriving DecidableEq, Repr

/-- A neighbor record (R63). `active` is false for PROBATION. `schedule` is absent in a record whose beacons
have all carried unusable values (R61). `hold` is the hold expiry, present while held (R76). -/
structure Neighbor where
  address : Addr
  active : Bool
  tracker : Tracker
  schedule : Option Schedule
  stale : Bool
  cost : Nat
  parent : Addr
  poisoned : Bool
  hold : Option Tick
  grant : Nat
  q : Nat
  updates : Nat
  untried : Bool
  signal : Int
  lastTried : Option Tick
  admission : Tick
  pinned : Bool
deriving DecidableEq, Repr

/-- State of the Neighbor Unit: the 48 places, the pin and bar lists, and the instant of the next sweep (R78). -/
structure NbrUnit where
  places : List (Option Neighbor) := List.replicate 48 none
  pins : List Addr := []
  bars : List Addr := []
  nextSweep : Tick := 32768
deriving DecidableEq, Repr

/-! ## Route Unit (chapter 5) -/

/-- A parent set entry (R81). -/
structure Parent where
  address : Addr
  cost : Nat
deriving DecidableEq, Repr

/-- A trail entry (R94). -/
structure Trail where
  origin : Addr
  next : Addr
  refreshed : Tick
deriving DecidableEq, Repr

/-- State of the Route Unit (R81). The trails are held in ascending order of origin. -/
structure Route where
  parents : List Parent := []
  ownU : Nat := 4095
  trails : List Trail := []
deriving DecidableEq, Repr

/-! ## Frame Store (chapter 6) -/

/-- The binding of a frame (R102). -/
inductive Binding where
  | uplink
  | bound (neighbor : Addr)
  | localDelivery
deriving DecidableEq, Repr

/-- The source of a frame (R102). -/
inductive Source where
  | relayed (lastHop : Addr) (signal : BitVec 8) (arrival : Tick)
  | originated (box : Box)
deriving DecidableEq, Repr

/-- A frame record (R102). `serial` is the admission serial (R105). -/
structure FrameRec where
  origin : Addr
  destination : Addr
  sequence : Byte
  cls : FrameClass
  hopLimit : Nat
  payload : List Byte
  binding : Binding
  total : Nat
  hops : Nat
  lastFail : Option Addr
  backoff : Option Tick
  deadline : Option Tick
  source : Source
  serial : Nat
deriving DecidableEq, Repr

/-- State of the Frame Store (R101). The free pool is what the four lists leave of the 64 cells. -/
structure Store where
  queue : List FrameRec := []
  parked : List FrameRec := []
  staging : List FrameRec := []
  burst : List FrameRec := []
  recent : List (Addr × Byte) := []
  flow : Flow := .go
  sequence : Byte := 0
  nextSerial : Nat := 0
deriving DecidableEq, Repr

/-! ## Transmit Planner and the sender's side (chapters 7 and 1) -/

/-- The plan states (R120). -/
inductive PlanState where
  | none | open | frozen | burst
deriving DecidableEq, Repr

/-- A plan (R120). Its frames are the store's in-flight burst. `evicted` marks a target evicted while the burst
is under way (R70). -/
structure Plan where
  target : Addr
  instant : Tick
  start : Sixteenth
  channel : Nat
  cls : FrameClass
  winStart : Tick
  winStop : Tick
  evicted : Bool
deriving DecidableEq, Repr

/-- The sender's exchange states (chapter 1, section 1.5). -/
inductive TxState where
  | idle | sending | awaiting | taking | spacing
deriving DecidableEq, Repr

/-- State of the Transmit Planner (R120) and of the sender's side of an exchange: the sequence of the DATA under
way, its end, and the start of the next DATA while SPACING. -/
structure Planner where
  state : PlanState := .none
  plan : Option Plan := none
  marks : List (Addr × Tick) := []
  tx : TxState := .idle
  txSequence : Byte := 0
  txEnd : Sixteenth := 0
  txNext : Sixteenth := 0
deriving DecidableEq, Repr

/-! ## Receive Path (chapters 8 and 1) -/

/-- The receiver's exchange states (chapter 1, section 1.5). -/
inductive RxState where
  | idle | listening | receiving | turning | answering | continuing
deriving DecidableEq, Repr

/-- The rendezvous record (R139). -/
structure Rendezvous where
  beat : Tick
  firstCapture : Sixteenth
  timingError : Int
  transmitter : Addr
  frames : Nat
  lastAnswer : AckKind
  lastMore : Bool
deriving DecidableEq, Repr

/-- The ACK built in TURNING (R13): its bytes and its start instant. -/
structure BuiltAck where
  bytes : List Byte
  start : Sixteenth
deriving DecidableEq, Repr

/-- State of the Receive Path: the exchange state, the beat and channel of the own listen window in progress,
the rendezvous record and the built ACK. -/
structure Recv where
  state : RxState := .idle
  beat : Tick := 0
  channel : Nat := 0
  record : Option Rendezvous := none
  ack : Option BuiltAck := none
deriving DecidableEq, Repr

/-! ## Exchange Port (chapter 10) -/

/-- The exchange memory: (address, byte) pairs with strictly rising addresses below 0x8000 and no zero byte;
an unlisted address reads 0, as power-on leaves it (R174). -/
abbrev Memory := List Host.Cell

/-- The open SPI transaction (R166): a READ or a WRITE with the address its next byte goes to, and for a WRITE
the boxes whose map byte or body it has written and its written map bytes (R171, R172). -/
inductive Transaction where
  | reading (next : BitVec 15)
  | writing (next : BitVec 15) (touched : List Box) (mapBytes : List Box)
deriving DecidableEq, Repr

/-- The five fault flags (R176). -/
structure FaultFlags where
  radioFault : Bool := false
  config : Bool := false
  mapClash : Bool := false
  mapFault : Bool := false
  bodyClash : Bool := false
deriving DecidableEq, Repr

/-- One bit for each of the four attention reasons (R177). -/
structure Reasons where
  trigger : Bool := false
  timeout : Bool := false
  urgent : Bool := false
  fault : Bool := false
deriving DecidableEq, Repr

/-- The report timer (R177). -/
inductive ReportTimer where
  | stopped
  | running (expiry : Tick)
  | expired
deriving DecidableEq, Repr

/-- The attention unit (R177). ATTN is asserted (low) exactly while the unit is disarmed. -/
structure Attention where
  armed : Bool := true
  reasons : Reasons := {}
  mask : Reasons := { trigger := true, timeout := true, urgent := true, fault := true }
  count : Nat := 0
  timer : ReportTimer := .stopped
  alarmMark : Bool := false
  faultMark : Bool := false
deriving DecidableEq, Repr

/-- The counters group of the status page (R175), each 16-bit and saturating. -/
structure Counters where
  relayed : Nat := 0
  delivered : Nat := 0
  originatedSent : Nat := 0
  refusalsSent : Nat := 0
  hopLimit : Nat := 0
  noroute : Nat := 0
  exhausted : Nat := 0
  discarded : Nat := 0
  stopped : Nat := 0
  duplicates : Nat := 0
  badChecks : Nat := 0
  missedBeats : Nat := 0
  admissionRefusals : Nat := 0
  noticesLost : Nat := 0
deriving DecidableEq, Repr

/-- State of the Exchange Port. `dataOut` is what data out has driven in the present or last transaction: in a READ,
and after a first byte that is no instruction, from the instruction byte on (R166, R167); in IDENTIFY and STATUS after
it (R168). `snapshot` is a page taken at an assertion while a READ is open (R175). -/
structure Port where
  mem : Memory := []
  backlog : List Box := []
  lent : List Box := []
  taken : List Box := []
  txn : Option Transaction := none
  dataOut : List Byte := []
  snapshot : Option (List Byte) := none
  latchCount : BitVec 16 := 0
  flags : FaultFlags := {}
  attention : Attention := {}
  counters : Counters := {}
deriving DecidableEq, Repr

/-! ## Request Unit (chapter 11) -/

/-- The reasons of an eviction (R70). -/
inductive EvictReason where
  | probation | age | barred | replaced | ownAddress
deriving DecidableEq, Repr

/-- A notice's event with its optional fields (R188). -/
inductive NoticeEvent where
  | parent (old new : Addr) (ownU : Nat)
  | neighborIn (address : Addr) (signal : BitVec 8)
  | neighborOut (address : Addr) (reason : EvictReason)
  | mask (mask : Mask) (epoch : Byte)
  | supply (mode : SupplyMode)
  | radioFault (op : OpKind)
deriving DecidableEq, Repr

/-- A raised notice: its event and the local tick of the event (R188). -/
structure Notice where
  event : NoticeEvent
  tick : Tick
deriving DecidableEq, Repr

/-- State of the Request Unit: the settings, the notice queue with its overflow mark, the completion serial. -/
structure ReqUnit where
  settings : Settings := {}
  notices : List Notice := []
  overflow : Bool := false
  serial : BitVec 16 := 0
deriving DecidableEq, Repr

/-! ## The whole machine -/

/-- Work that reports raised within one event have called for and that the event has not yet done: the MODEL's
own bookkeeping, empty between commands (assumption log entry 10). `oldParents` is the parent set as it stood
before the event changed it; `placeListen` holds the instant after which the next own listen is to be placed. -/
structure Work where
  scan : Bool := false
  review : Bool := false
  oldParents : Option (List Parent) := none
  pass : Bool := false
  recompute : Bool := false
  planLost : Bool := false
  placeListen : Option Tick := none
deriving DecidableEq, Repr

/-- The state of the part. `now16` is the local time counter with its sixteenths (R1). `draws` counts the random
draws made and `work` is the bookkeeping of `Work`; both are the MODEL's own fields. `pending` is the queue of
waiting commands, first in, first out. -/
structure State where
  now16 : Sixteenth := 0
  radio : Radio := {}
  sched : Sched := {}
  nbr : NbrUnit := {}
  route : Route := {}
  store : Store := {}
  planner : Planner := {}
  recv : Recv := {}
  port : Port := {}
  req : ReqUnit := {}
  draws : Nat := 0
  work : Work := {}
  pending : List Instr := []
deriving DecidableEq, Repr

/-- The reasons a step can stop with a fault. There is none: the manual describes no event that stops the part,
and no access of the model leaves the 15-bit exchange memory. -/
inductive Fault where
deriving DecidableEq, Repr

/-- The reasons a step can be refused. -/
inductive Refusal where
  /-- Raised by `exec` alone, for a row that has no meaning yet. Safe: the machine stops. -/
  | notModelled (mnemonic : String)
deriving DecidableEq, Repr

/-- The RESET-FRONT-END issued at tick 0 by power-on (R152), due at issue. -/
def Operation.powerOnReset : Operation :=
  { kind := .resetFrontEnd, purpose := .resetFrontEnd, channel := 0, start := 0, stop := 0, start16 := 0,
    bytes := [], started := none, due := 0, cut := false }

/-- The survey batches after every reset: each of the data channels 1 to 15 at countdown 16 and tally 0
(R29; the beacon channel in use is then 0, R22). -/
def SurveyBatch.afterReset : List SurveyBatch :=
  (List.range' 1 15).map fun c => { channel := c, countdown := 16, tally := 0 }

/-- The machine right after power-on (R1, R22, R41, R63, R81, R101, R120, R139, R155, R162, R174, R177, R184,
R190): every block reset, the exchange memory zero, the engine HALTED with a RESET-FRONT-END issued, the census
interval timer started. The SUPPLY input is taken as high (assumption log entry 3). -/
def State.reset : State where
  radio := { op := some Operation.powerOnReset }
  sched := { batches := SurveyBatch.afterReset, censusDue := BitVec.ofNat 32 (600 * 32768) }

end Sys2Proof.Machine
end

