-- ==== Sys2Proof/Machine/Ops.lean ====
section
/-! DEFINITION. Named operations over local time, numbers, the exchange memory, neighbor records and the model's
bookkeeping of reports. Every other file of the machine is written over these. -/

namespace Sys2Proof.Machine

/-! ## Local time (00_scope.md, section 1.6) -/

/-- The tick of an instant held in sixteenths: floor(p / 16). -/
def tickOf (p : Sixteenth) : Tick := (p >>> 4).setWidth 32

/-- A tick as an instant in sixteenths. -/
def ofTick (t : Tick) : Sixteenth := (t.setWidth 36) <<< 4

/-- The local time counter in ticks (R1). -/
def State.now (s : State) : Tick := tickOf s.now16

/-- The difference of two ticks, taken modulo 2^32 and read as a signed value. -/
def sdiff (a b : Tick) : Int := (a - b).toInt

/-- The difference of two instants in sixteenths, taken modulo 2^36 and read as a signed value. -/
def sdiff16 (a b : Sixteenth) : Int := (a - b).toInt

/-- The clock at `now` has reached `due`: now − due ≥ 0 as a signed difference. -/
def reached (now due : Tick) : Bool := 0 ≤ sdiff now due

/-- The age of a past instant in ticks. The clamps of R68 and R96 let it reach 2^31 by the next sweep and no further,
so it is read without a sign (assumption log entry 53). -/
def age (now t : Tick) : Nat := (now - t).toNat

/-- `n` ticks as a tick count modulo 2^32. -/
def ticks (n : Nat) : Tick := BitVec.ofNat 32 n

/-- `n` sixteenths modulo 2^36. -/
def sixteenths (n : Nat) : Sixteenth := BitVec.ofNat 36 n

/-- Whole seconds in ticks (00_scope.md, "Settings in seconds"). -/
def seconds (n : Nat) : Nat := n * 32768

/-- Taking a command at `t`: the local time counter stands at `t`, and no report is outstanding. -/
def State.enter (t : Sixteenth) (s : State) : State := { s with now16 := t, work := {} }

/-! ## Numbers (00_scope.md, "Rounding", "Counters") -/

/-- The clamp to [lo, hi]. -/
def clampInt (lo hi x : Int) : Int := if x < lo then lo else if hi < x then hi else x

/-- The clamp to [lo, hi] of a natural number. -/
def clampNat (lo hi x : Nat) : Nat := if x < lo then lo else if hi < x then hi else x

/-- One more, stopping at `top`. -/
def satInc (top n : Nat) : Nat := if n < top then n + 1 else top

/-- A 16-bit saturating counter raised by 1. -/
def bump (n : Nat) : Nat := satInc 65535 n

/-- `a / b` truncated toward zero. -/
def tz (a b : Int) : Int := Int.tdiv a b

/-- An address that is not a node address becomes 0x0000 (R148). -/
def nodeOrNone (a : Addr) : Addr := if a ≠ 0 && a.toNat < 0xFF00 then a else 0

/-- A node address, 0x0001 to 0xFEFF (00_scope.md, "Addresses"). -/
def nodeAddr (a : Addr) : Bool := a ≠ 0 && a.toNat < 0xFF00

/-- The destination meaning "to any gateway". -/
def uplinkAddr : Addr := 0xFFFE

/-- The destination of beacons. -/
def allAddr : Addr := 0xFFFF

/-! ## Bytes (little-endian; 00_scope.md, "Byte order") -/

/-- The `n` low bytes of `v`, least significant first. -/
def leBytes : Nat → Nat → List Byte
  | 0, _ => []
  | n + 1, v => BitVec.ofNat 8 v :: leBytes n (v / 256)

/-- The number whose bytes, least significant first, are `bs`. -/
def leNat : List Byte → Nat
  | [] => 0
  | b :: bs => b.toNat + 256 * leNat bs

/-- `n` bytes of `bs` from offset `off`, read little-endian; bytes past the end read 0. -/
def leAt (bs : List Byte) (off n : Nat) : Nat := leNat ((bs.drop off).take n)

/-- The two bytes at `off` as a 16-bit word. -/
def word16 (bs : List Byte) (off : Nat) : BitVec 16 := BitVec.ofNat 16 (leAt bs off 2)

/-- The bytes of `v` in two's complement, 16 bits. -/
def leInt16 (v : Int) : List Byte := leBytes 2 (BitVec.ofInt 16 v).toNat

/-- `bs` extended with zero bytes, or cut, to `n` bytes. -/
def padTo (n : Nat) (bs : List Byte) : List Byte := bs.take n ++ List.replicate (n - bs.length) 0

/-! ## The exchange memory (R167, R170, R174) -/

/-- What an address that nothing has written reads as: the zero that power-on and RESETN leave (R174). -/
def Memory.blank : Byte := 0

/-- The byte the memory holds at an address. -/
def Memory.read : Memory → Nat → Byte
  | [], _ => Memory.blank
  | (b, v) :: m, a => if a = b then v else if a < b then Memory.blank else Memory.read m a

/-- Store a byte, keeping the canonical form: strictly rising addresses and no byte equal to `Memory.blank`. -/
def Memory.write : Memory → Nat → Byte → Memory
  | [], a, v => if v = Memory.blank then [] else [(a, v)]
  | (b, w) :: m, a, v =>
    if a < b then (if v = Memory.blank then (b, w) :: m else (a, v) :: (b, w) :: m)
    else if a = b then (if v = Memory.blank then m else (b, v) :: m)
    else (b, w) :: Memory.write m a v

/-- Store a run of bytes at rising addresses. -/
def Memory.writeRun (m : Memory) (a : Nat) : List Byte → Memory
  | [] => m
  | v :: vs => Memory.writeRun (m.write a v) (a + 1) vs

/-- A run of `n` bytes from address `a`. -/
def Memory.readRun (m : Memory) (a : Nat) : Nat → List Byte
  | 0 => []
  | n + 1 => m.read a :: Memory.readRun m (a + 1) n

/-- The canonical form of the memory, from a lowest admissible address on. -/
def Memory.wfFrom : Nat → Memory → Bool
  | _, [] => true
  | lo, (a, v) :: m => decide (lo ≤ a) && decide (a < 0x8000) && decide (v ≠ Memory.blank) && Memory.wfFrom (a + 1) m

/-- The canonical form: addresses strictly rising and below 0x8000, no entry equal to what an unlisted address
reads as. -/
def Memory.wf (m : Memory) : Bool := Memory.wfFrom 0 m

/-- The map byte codes (12_formats.md, section 12.4). -/
inductive MapCode where
  | empty | post | taken | done | lent | filled
deriving DecidableEq, Repr

/-- The value of a map code. -/
def MapCode.byte : MapCode → Byte
  | .empty => 0 | .post => 1 | .taken => 2 | .done => 3 | .lent => 4 | .filled => 5

/-- The address of the body of box `b` (R170). -/
def bodyAddr (b : Box) : Nat := 0x100 + 256 * b.val

/-- The address of the status page (R170). -/
def pageAddr : Nat := 0x80

/-- The map byte of box `b`. -/
def Port.mapByte (p : Port) (b : Box) : Byte := Memory.read p.mem b.val

/-- The body of box `b`. -/
def Port.body (p : Port) (b : Box) : List Byte := Memory.readRun p.mem (bodyAddr b) 256

/-- A box is engine-owned while it is in the TAKEN set or the lent pool (R170). -/
def Port.engineOwned (p : Port) (b : Box) : Bool := p.taken.contains b || p.lent.contains b

/-- The engine writes a whole body (R173, R192): the record's bytes, then 0 up to offset 255. -/
def Port.writeBody (p : Port) (b : Box) (bs : List Byte) : Port :=
  { p with mem := Memory.writeRun p.mem (bodyAddr b) (padTo 256 bs) }

/-- The engine writes a map byte; the byte leaves the open transaction's written map bytes (R173). -/
def Port.writeMap (p : Port) (b : Box) (c : MapCode) : Port :=
  { p with
    mem := Memory.write p.mem b.val c.byte
    txn := match p.txn with
      | some (.writing n touched mapped) => some (.writing n touched (mapped.filter (· ≠ b)))
      | other => other }

/-! ## Neighbor records -/

/-- The record of an address, if it has one (R63). -/
def NbrUnit.find (u : NbrUnit) (a : Addr) : Option Neighbor :=
  u.places.findSome? fun p => p.bind fun r => if r.address = a then some r else none

/-- The record of an address. -/
def State.nbrOf (s : State) (a : Addr) : Option Neighbor := s.nbr.find a

/-- Rewrite the record of an address, leaving every other place as it stands. -/
def NbrUnit.update (u : NbrUnit) (a : Addr) (f : Neighbor → Neighbor) : NbrUnit :=
  { u with places := u.places.map fun p => p.map fun r => if r.address = a then f r else r }

/-- Rewrite the record of an address. -/
def State.updNbr (s : State) (a : Addr) (f : Neighbor → Neighbor) : State :=
  { s with nbr := s.nbr.update a f }

/-- Every record of the table, in place order. -/
def NbrUnit.records (u : NbrUnit) : List Neighbor := u.places.filterMap id

/-- Insert by a strict order given as a test "comes before", after the elements it does not come before. -/
def insertBy {α : Type} (before : α → α → Bool) (x : α) : List α → List α
  | [] => [x]
  | y :: ys => if before x y then x :: y :: ys else y :: insertBy before x ys

/-- Sort by insertion. -/
def sortBy {α : Type} (before : α → α → Bool) : List α → List α
  | [] => []
  | x :: xs => insertBy before x (sortBy before xs)

/-- The best element of a list under "comes before", the earlier one in the list between equals. -/
def bestBy {α : Type} (before : α → α → Bool) : List α → Option α
  | [] => none
  | x :: xs =>
    match bestBy before xs with
    | none => some x
    | some y => if before y x then some y else some x

/-! ## Reports raised within one event (R52, R76, R87, R88, R107, R124, R179; assumption log entry 10) -/

/-- A change of the free count, the engine state or the stop-pending mark: a backlog scan is called for (R179). -/
def State.callScan (s : State) : State := { s with work := { s.work with scan := true } }

/-- A route review is called for (R88). -/
def State.callReview (s : State) : State := { s with work := { s.work with review := true } }

/-- A re-evaluation pass is called for (R107). -/
def State.callPass (s : State) : State := { s with work := { s.work with pass := true } }

/-- A recomputation of the plan is called for (R124). -/
def State.callRecompute (s : State) : State := { s with work := { s.work with recompute := true } }

/-- A change of a target's state that the Frame Store and the planner hear of (R60, R76). -/
def State.reportTarget (s : State) : State := s.callPass.callRecompute

/-- A change of a tracker's state: the Route Unit, the Frame Store and the planner hear of it (R52). -/
def State.reportTracker (s : State) : State := s.callReview.callPass.callRecompute

end Sys2Proof.Machine
end

