-- ==== Sys2Proof/Machine/Operands.lean ====
section
/-! DEFINITION. The frames on air: airtime, the check, the byte layouts and how the engine reads and builds them
(chapter 1; 12_formats.md, section 12.1). -/

namespace Sys2Proof.Machine

/-! ## Codes -/

/-- The class code, ALARM 0, CONTROL 1, BULK 2; also the order of the classes, highest first (R7). -/
def FrameClass.code : FrameClass → Nat
  | .alarm => 0 | .control => 1 | .bulk => 2

/-- The class of a code; 3 is none (R7). -/
def FrameClass.ofCode : Nat → Option FrameClass
  | 0 => some .alarm
  | 1 => some .control
  | 2 => some .bulk
  | _ => none

/-- The ACK kind code. -/
def AckKind.code : AckKind → Nat
  | .go => 0 | .hold => 1 | .full => 2 | .noroute => 3

/-- The ACK kind of a 2-bit code. -/
def AckKind.ofCode : Nat → AckKind
  | 0 => .go
  | 1 => .hold
  | 2 => .full
  | _ => .noroute

/-- The flow bit. -/
def Flow.code : Flow → Nat
  | .go => 0 | .hold => 1

/-- The flow of a bit. -/
def Flow.ofBit (b : Bool) : Flow := if b then .hold else .go

/-- The ACK kind equal to the own flow state (R141). -/
def Flow.ackKind : Flow → AckKind
  | .go => .go | .hold => .hold

/-! ## Airtime (R8) and sizes (R2) -/

/-- The airtime of a frame of `n` bytes: ceil((n + 10) × 1.25) ticks. -/
def airtime (n : Nat) : Nat := ((n + 10) * 5 + 3) / 4

/-- The length of a DATA frame of `n` payload bytes. -/
def dataLength (n : Nat) : Nat := 14 + n

/-- The length of an ACK. -/
def ackLength : Nat := 13

/-- The length of a BEACON. -/
def beaconLength : Nat := 26

/-! ## The frame check (R10) -/

/-- One bit step of the division by x^16 + x^12 + x^5 + 1. -/
def crcBit (c : BitVec 16) : BitVec 16 := if c.msb then (c <<< 1) ^^^ 0x1021 else c <<< 1

/-- One byte, most significant bit first. -/
def crcByte (c : BitVec 16) (b : Byte) : BitVec 16 :=
  let x := c ^^^ (b.setWidth 16 <<< 8)
  crcBit (crcBit (crcBit (crcBit (crcBit (crcBit (crcBit (crcBit x)))))))

/-- CRC-16 over the bytes, starting from 0xFFFF, with no final inversion. -/
def crc16 (bs : List Byte) : BitVec 16 := bs.foldl crcByte 0xFFFF

/-- The finished bytes with the check appended low byte first. -/
def withCheck (bs : List Byte) : List Byte := bs ++ leBytes 2 (crc16 bs).toNat

/-- The two check bytes of a received frame agree with the bytes before them. -/
def checkGood (bs : List Byte) : Bool :=
  2 < bs.length && crc16 (bs.take (bs.length - 2)) == word16 bs (bs.length - 2)

/-! ## Building frames (R2, R191) -/

/-- A DATA frame's bytes. -/
def DataFrame.bytes (d : DataFrame) : List Byte :=
  withCheck <|
    [BitVec.ofNat 8 (1 + 4 * d.cls.code + if d.more then 128 else 0)]
      ++ leBytes 2 d.transmitter.toNat ++ leBytes 2 d.nextHop.toNat ++ leBytes 2 d.origin.toNat
      ++ leBytes 2 d.destination.toNat
      ++ [d.sequence, BitVec.ofNat 8 (d.hopLimit % 16), BitVec.ofNat 8 d.payload.length] ++ d.payload

/-- An ACK frame's bytes. -/
def AckFrame.bytes (a : AckFrame) : List Byte :=
  withCheck <|
    [BitVec.ofNat 8 (2 + 4 * a.kind.code + 16 * a.flow.code)]
      ++ leBytes 2 a.transmitter.toNat ++ leBytes 2 a.addressee.toNat ++ [a.sequence] ++ leInt16 a.timingError
      ++ [BitVec.ofNat 8 a.grant, BitVec.ofNat 8 a.exponent, a.epoch]

/-- A BEACON frame's bytes. -/
def BeaconFrame.bytes (b : BeaconFrame) : List Byte :=
  withCheck <|
    [BitVec.ofNat 8 (3 + 16 * b.flow.code + 32 * ((b.grant - 1) % 4))]
      ++ leBytes 2 b.transmitter.toNat ++ leBytes 2 allAddr.toNat ++ leBytes 4 b.timestamp.toNat
      ++ [BitVec.ofNat 8 b.number, BitVec.ofNat 8 b.exponent,
          BitVec.ofNat 8 (b.channel % 16 + 16 * ((b.beaconExponent - 16) % 8)),
          BitVec.ofNat 8 b.phase, BitVec.ofNat 8 b.halfWindow]
      ++ leBytes 2 b.cost ++ leBytes 2 b.parent.toNat ++ leBytes 2 b.mask.toNat ++ [b.epoch]
      ++ leBytes 2 b.pendingMask.toNat ++ [BitVec.ofNat 8 b.applyNumber]

/-! ## Reading frames (R6, R7, R11, R191) -/

/-- The byte at an offset, 0 past the end. -/
def byteAt (bs : List Byte) (i : Nat) : Byte := bs.getD i 0

/-- A DATA frame read from bytes whose check is good. -/
def readData (bs : List Byte) : Option DataFrame := do
  let c := byteAt bs 0
  let n := (byteAt bs 11).toNat
  let cls ← FrameClass.ofCode (c.extractLsb' 2 2).toNat
  let transmitter := word16 bs 1
  let nextHop := word16 bs 3
  let origin := word16 bs 5
  if 1 ≤ n && n ≤ 96 && bs.length == dataLength n && nodeAddr transmitter && nodeAddr nextHop && nodeAddr origin then
    some { cls, more := c.getLsbD 7, transmitter, nextHop, origin, destination := word16 bs 7,
           sequence := byteAt bs 9, hopLimit := (byteAt bs 10).toNat % 16, payload := (bs.drop 12).take n }
  else none

/-- An ACK frame read from bytes whose check is good. The timing error is clamped to −1,024 … +1,024 and the grant
to 1 … 4 (R191). -/
def readAck (bs : List Byte) : Option AckFrame :=
  let c := byteAt bs 0
  let transmitter := word16 bs 1
  let addressee := word16 bs 3
  if bs.length == ackLength && nodeAddr transmitter && nodeAddr addressee then
    some { kind := AckKind.ofCode (c.extractLsb' 2 2).toNat, transmitter, addressee, sequence := byteAt bs 5,
           timingError := clampInt (-1024) 1024 (word16 bs 6).toInt, flow := Flow.ofBit (c.getLsbD 4),
           grant := clampNat 1 4 (byteAt bs 8).toNat, exponent := (byteAt bs 9).toNat, epoch := byteAt bs 10 }
  else none

/-- A BEACON frame read from bytes whose check is good. The listen half-window is clamped to 8 … 64 (R191), an
advertised cost above 4,095 is taken as 4,095 and a parent that is no node address as 0x0000 (R148). -/
def readBeacon (bs : List Byte) : Option BeaconFrame :=
  let c := byteAt bs 0
  let transmitter := word16 bs 1
  let ch := byteAt bs 11
  if bs.length == beaconLength && nodeAddr transmitter && word16 bs 3 == allAddr then
    some { transmitter, timestamp := BitVec.ofNat 32 (leAt bs 5 4), number := (byteAt bs 9).toNat,
           exponent := (byteAt bs 10).toNat, beaconExponent := 16 + (ch.extractLsb' 4 3).toNat,
           phase := (byteAt bs 12).toNat, halfWindow := clampNat 8 64 (byteAt bs 13).toNat,
           channel := (ch.extractLsb' 0 4).toNat, cost := min 4095 (leAt bs 14 2),
           parent := nodeOrNone (word16 bs 16), flow := Flow.ofBit (c.getLsbD 4),
           grant := (c.extractLsb' 5 2).toNat + 1, mask := word16 bs 18, epoch := byteAt bs 20,
           pendingMask := word16 bs 21, applyNumber := (byteAt bs 23).toNat }
  else none

/-- The two tests of R11: `none` is a frame discarded for a bad check or a malformed form. -/
def readFrame (bs : List Byte) : Option Frame :=
  if checkGood bs then
    match ((byteAt bs 0).extractLsb' 0 2).toNat with
    | 1 => (readData bs).map .data
    | 2 => (readAck bs).map .ack
    | 3 => (readBeacon bs).map .beacon
    | _ => none
  else none

end Sys2Proof.Machine
end

