-- ==== Sys2Proof/Machine/Lattice.lean ====
section
/-! DEFINITION. The lattice of beats and beacon instants and the beat channel (R24, R26, R28), for the node itself
and, with a neighbor's values, for a neighbor (R55 to R57). -/

namespace Sys2Proof.Machine

/-- The smallest instant not before `lo` with remainder `phase` modulo 2^n; it runs on across the wrap, since 2^n
divides 2^32. -/
def latticeFrom (n phase : Nat) (lo : Tick) : Tick :=
  lo + ticks ((phase % 2 ^ n + 2 ^ n - lo.toNat % 2 ^ n) % 2 ^ n)

/-- `t` lies on the lattice of exponent `n` and phase `phase` (in ticks). -/
def onLattice (n phase : Nat) (t : Tick) : Bool := t.toNat % 2 ^ n == phase % 2 ^ n

/-- The data channels of a mask: its channels other than the beacon channel, in ascending order (R28). -/
def dataChannels (mask : Mask) (beaconChannel : Nat) : List Nat :=
  (List.range 16).filter fun c => mask.getLsbD c && c != beaconChannel

/-- The grid number of an instant (R28). -/
def gridNumber (t : Tick) : Nat := t.toNat / 512 % 65536

/-- The beat channel of the instant `t` for the node with address `a` (R28). -/
def beatChannel (a : Addr) (mask : Mask) (beaconChannel : Nat) (t : Tick) : Nat :=
  let cs := dataChannels mask beaconChannel
  cs.getD ((a.toNat + 3 * gridNumber t) % cs.length) 0

/-- The number of a beacon instant: floor(t / 2^e) mod 256 (R26). -/
def beaconNumber (e : Nat) (t : Tick) : Nat := t.toNat / 2 ^ e % 256

/-- The settings. -/
def State.settings (s : State) : Settings := s.req.settings

/-- The own address (R184). -/
def State.own (s : State) : Addr := s.req.settings.ownAddress

/-- The gateway role (R99). -/
def State.gateway (s : State) : Bool := s.req.settings.gateway

/-- The beat exponent in use (R24). -/
def State.exponentInUse (s : State) : Nat :=
  match s.sched.supplyMode with
  | .normal => s.settings.beatExponent
  | .reserve => min (s.settings.beatExponent + 2) 16

/-- The phase in use, in ticks. -/
def State.phaseTicks (s : State) : Nat := 512 * s.sched.phase

/-- `t` is an own beat instant (R24). -/
def State.isOwnBeat (s : State) (t : Tick) : Bool := onLattice s.exponentInUse s.phaseTicks t

/-- `t` is an own beacon instant (R26). -/
def State.isOwnBeacon (s : State) (t : Tick) : Bool := onLattice s.sched.beaconExponent s.phaseTicks t

/-- The first own beacon instant later than `t` (R34). -/
def State.nextOwnBeacon (s : State) (t : Tick) : Tick :=
  latticeFrom s.sched.beaconExponent s.phaseTicks (t + 1)

/-- The first own beat not before `lo` that is not a beacon instant (R25); none while the beat interval equals the
beacon interval. -/
def State.nextOwnListen (s : State) (lo : Tick) : Option Tick :=
  if s.sched.beaconExponent ≤ s.exponentInUse then none
  else
    let t := latticeFrom s.exponentInUse s.phaseTicks lo
    if s.isOwnBeacon t then some (t + ticks (2 ^ s.exponentInUse)) else some t

/-- The own beat channel of `t` (R28). -/
def State.ownChannel (s : State) (t : Tick) : Nat :=
  beatChannel s.own s.sched.mask s.sched.beaconChannel t

/-- The own data channels (R28). -/
def State.ownData (s : State) : List Nat := dataChannels s.sched.mask s.sched.beaconChannel

/-- The decided mask: the pending mask while one is staged, the current mask otherwise (R30). -/
def Sched.decided (c : Sched) : Mask :=
  match c.pendingMask with
  | some (m, _) => m
  | none => c.mask

/-- The mask without channel `c`. -/
def maskWithout (m : Mask) (c : Nat) : Mask := m &&& ~~~(BitVec.ofNat 16 (2 ^ c))

/-- The mask with channel `c`. -/
def maskWith (m : Mask) (c : Nat) : Mask := m ||| BitVec.ofNat 16 (2 ^ c)

/-- The free pool's size: the cells the four lists leave (R101). -/
def Store.free (st : Store) : Nat :=
  64 - (st.queue.length + st.parked.length + st.staging.length + st.burst.length)

/-- ATTN is low: asserted from an assertion until the next REARM or reset (R177). -/
def State.attnLow (s : State) : Bool := !s.port.attention.armed

end Sys2Proof.Machine
end

