-- ==== Sys2Proof/Machine/Flags.lean ====
section
/-! DEFINITION. Counters, fault flags, the status page and its latch, the STATUS bytes and the attention unit
(R175 to R178; 12_formats.md, sections 12.3 and 12.4). -/

namespace Sys2Proof.Machine

/-! ## Counters (R175) -/

/-- Rewrite the counters. -/
def State.count (s : State) (f : Counters → Counters) : State :=
  { s with port := { s.port with counters := f s.port.counters } }

/-- The counters in the order of the status page (12_formats.md, section 12.3). -/
def Counters.list (c : Counters) : List Nat :=
  [c.relayed, c.delivered, c.originatedSent, c.refusalsSent, c.hopLimit, c.noroute, c.exhausted, c.discarded,
    c.stopped, c.duplicates, c.badChecks, c.missedBeats, c.admissionRefusals, c.noticesLost]

/-- A frame discarded under R11 raises the bad-check counter. -/
def State.countBadCheck (s : State) : State := s.count fun c => { c with badChecks := bump c.badChecks }

/-- A missed own beat (R153, R158). -/
def State.countMissed (s : State) : State := s.count fun c => { c with missedBeats := bump c.missedBeats }

/-- A NOROUTE drop or refusal (R111, R140, R142, R181). -/
def State.countNoroute (s : State) : State := s.count fun c => { c with noroute := bump c.noroute }

/-- An answer of FULL or NOROUTE decided (R151). -/
def State.countRefusal (s : State) : State := s.count fun c => { c with refusalsSent := bump c.refusalsSent }

/-- A delivery written (R111, R113). -/
def State.countDelivered (s : State) : State := s.count fun c => { c with delivered := bump c.delivered }

/-! ## Fault flags (R176) -/

/-- Rewrite the fault flags. -/
def State.flag (s : State) (f : FaultFlags → FaultFlags) : State :=
  { s with port := { s.port with flags := f s.port.flags } }

/-- A list of bits as a number, bit 0 first. -/
def bitsNat : List Bool → Nat
  | [] => 0
  | b :: bs => b.toNat + 2 * bitsNat bs

/-- The engine-state code (12_formats.md, section 12.3). -/
def EngineState.code : EngineState → Nat
  | .halted => 0 | .discovery => 1 | .running => 2 | .faulted => 3

/-- The supply-mode code. -/
def SupplyMode.code : SupplyMode → Nat
  | .normal => 0 | .reserve => 1

/-- The engine-state byte of STATUS (12_formats.md, section 12.4). -/
def State.engineByte (s : State) : Byte :=
  BitVec.ofNat 8 (s.radio.engine.code
    + 4 * bitsNat [s.port.attention.armed, s.radio.stopPending, s.radio.faultLatch])

/-- The reason byte of STATUS. -/
def Reasons.byte (r : Reasons) : Byte := BitVec.ofNat 8 (bitsNat [r.trigger, r.timeout, r.urgent, r.fault])

/-- The fault byte of STATUS. -/
def FaultFlags.byte (f : FaultFlags) : Byte :=
  BitVec.ofNat 8 (bitsNat [f.radioFault, f.config, f.mapClash, f.mapFault, f.bodyClash])

/-! ## The status page (R175; 12_formats.md, section 12.3) -/

/-- The address of the parent of rank `i` + 1, 0x0000 for an empty rank. -/
def Route.parentAt (r : Route) (i : Nat) : Addr := (r.parents[i]?.map (·.address)).getD 0

/-- How many frames of a class the transmit queue holds. -/
def Store.classCount (st : Store) (c : FrameClass) : Nat := (st.queue.filter fun f => f.cls = c).length

/-- The 128 bytes of the page, from one snapshot of the state, with the given latch count. -/
def State.pageBytes (s : State) (latch : BitVec 16) : List Byte :=
  padTo 128 <|
    leBytes 2 latch.toNat ++ leBytes 4 s.now.toNat
      ++ leBytes 1 s.radio.engine.code ++ leBytes 1 (bitsNat [s.radio.stopPending, s.radio.faultLatch])
      ++ leBytes 2 s.own.toNat ++ leBytes 1 s.gateway.toNat ++ [0] ++ leBytes 2 s.route.ownU
      ++ leBytes 2 (s.route.parentAt 0).toNat ++ leBytes 2 (s.route.parentAt 1).toNat
      ++ leBytes 2 (s.route.parentAt 2).toNat
      ++ leBytes 1 s.exponentInUse ++ leBytes 1 s.sched.phase ++ leBytes 1 s.sched.supplyMode.code ++ [s.sched.epoch]
      ++ leBytes 2 s.sched.mask.toNat
      ++ leBytes 1 s.store.free ++ leBytes 1 (s.store.classCount .alarm) ++ leBytes 1 (s.store.classCount .control)
      ++ leBytes 1 (s.store.classCount .bulk) ++ leBytes 1 s.store.parked.length ++ leBytes 1 s.store.staging.length
      ++ leBytes 1 s.port.backlog.length ++ leBytes 1 s.port.lent.length
      ++ leBytes 1 (s.nbr.records.filter fun r => !r.active).length
      ++ leBytes 1 (s.nbr.records.filter fun r => r.active).length
      ++ leBytes 2 s.route.trails.length ++ [0, 0]
      ++ s.port.counters.list.flatMap (leBytes 2)

/-- A page put into the exchange memory. -/
def Port.writePage (p : Port) (page : List Byte) : Port := { p with mem := Memory.writeRun p.mem pageAddr page }

/-- A latch: the count rises by 1 and the page takes one snapshot (R175). While a READ is open the snapshot waits
for the end of that transaction. -/
def State.latchPage (s : State) : State :=
  let n := s.port.latchCount + 1
  let page := s.pageBytes n
  let p := { s.port with latchCount := n }
  match s.port.txn with
  | some (.reading _) => { s with port := { p with snapshot := some page } }
  | _ => { s with port := p.writePage page }

/-! ## The attention unit (R177, R178) -/

/-- The reasons that are set and unmasked. -/
def Attention.unmasked (a : Attention) : Bool :=
  (a.reasons.trigger && a.mask.trigger) || (a.reasons.timeout && a.mask.timeout)
    || (a.reasons.urgent && a.mask.urgent) || (a.reasons.fault && a.mask.fault)

/-- Rewrite the attention unit. -/
def State.attend (s : State) (f : Attention → Attention) : State :=
  { s with port := { s.port with attention := f s.port.attention } }

/-- What an assertion does to the unit itself (R177). -/
def Attention.assert (a : Attention) : Attention :=
  { a with
    armed := false
    count := 0
    timer := .stopped
    alarmMark := a.alarmMark && !a.reasons.urgent
    faultMark := a.faultMark && !a.reasons.fault }

/-- After an event of the unit: if it is armed and an unmasked reason is set, ATTN is asserted and the page latched
(R177). -/
def State.attentionTest (s : State) : State :=
  if s.port.attention.armed && s.port.attention.unmasked then (s.attend Attention.assert).latchPage else s

/-- TRIGGER is set when the pending count is at or above the trigger level. -/
def Attention.triggerTest (level : Nat) (a : Attention) : Attention :=
  if level ≤ a.count then { a with reasons := { a.reasons with trigger := true } } else a

/-- The report timeout in ticks: floor(ms × 32,768 / 1,000) (R177). -/
def reportTicks (ms : Nat) : Nat := ms * 32768 / 1000

/-- What a completion does to the unit before the test: the count rises, a stopped timer starts, TRIGGER and, for
an ALARM delivery, URGENT and the alarm mark are set (R177). -/
def Attention.completed (a : Attention) (level : Nat) (expiry : Tick) (alarm : Bool) : Attention :=
  let a := { a with
    count := satInc 255 a.count
    timer := match a.timer with
      | .stopped => .running expiry
      | other => other }
  let a := a.triggerTest level
  if alarm then { a with reasons := { a.reasons with urgent := true }, alarmMark := true } else a

/-- One DONE or FILLED write is handed to the attention unit (R173, R177). -/
def State.completion (s : State) (alarm : Bool) : State :=
  (s.attend fun a =>
    a.completed s.settings.triggerLevel (s.now + ticks (reportTicks s.settings.reportTimeout)) alarm).attentionTest

/-- The radio fault latch reaches the unit through its own reason (R177). -/
def State.attentionFault (s : State) : State :=
  (s.attend fun a => { a with reasons := { a.reasons with fault := true }, faultMark := true }).attentionTest

/-- The report timer expires (R177). -/
def State.attentionTimer (s : State) : State :=
  (s.attend fun a => { a with timer := .expired, reasons := { a.reasons with timeout := true } }).attentionTest

/-- A changed trigger level is tested against the pending count (R177). -/
def State.attentionLevel (s : State) : State :=
  (s.attend fun a => a.triggerTest s.settings.triggerLevel).attentionTest

/-- REARM clears the reasons, arms the unit and sets the reason of each standing condition (R178). -/
def Attention.rearmed (a : Attention) (level : Nat) : Attention :=
  { a with
    armed := true
    reasons :=
      { trigger := decide (level ≤ a.count)
        timeout := decide (0 < a.count) && decide (a.timer = .expired)
        urgent := a.alarmMark
        fault := a.faultMark } }

/-- REARM (R178): the unit is rearmed and ATTN may be asserted again at once. -/
def State.attentionRearm (s : State) : State :=
  (s.attend fun a => a.rearmed s.settings.triggerLevel).attentionTest

/-- A change of the mask takes effect at once (R178). -/
def State.attentionMask (s : State) (m : BitVec 4) : State :=
  (s.attend fun a =>
    { a with mask :=
        { trigger := m.getLsbD 0, timeout := m.getLsbD 1, urgent := m.getLsbD 2, fault := m.getLsbD 3 } }).attentionTest

end Sys2Proof.Machine
end

