-- ==== Sys2Proof/Machine/Boxes.lean ====
section
/-! DEFINITION. The records the engine writes into boxes: outcomes, deliveries and notices, with the completion
serial and the notice queue (chapter 11; 12_formats.md, section 12.2). -/

namespace Sys2Proof.Machine

/-- The outcome codes (12_formats.md, section 12.2). -/
inductive OutcomeCode where
  | ok | clamped | forwarded | exhausted | noroute | discarded | stopped | reset | notRunning | radioFault
  | badreq | badvalue | wrongState | fullList
deriving DecidableEq, Repr

/-- The value of an outcome code. -/
def OutcomeCode.byte : OutcomeCode → Byte
  | .ok => 0x00 | .clamped => 0x01 | .forwarded => 0x02 | .exhausted => 0x03 | .noroute => 0x04
  | .discarded => 0x05 | .stopped => 0x06 | .reset => 0x07 | .notRunning => 0x08 | .radioFault => 0x09
  | .badreq => 0x10 | .badvalue => 0x11 | .wrongState => 0x12 | .fullList => 0x13

/-- The outcome record of box `b` (R180): kind and tag as read, the code, the serial, the details. The box body
still holds the request, since host writes into it are dropped while the engine owns it (R170). -/
def State.outcomeRecord (s : State) (b : Box) (c : OutcomeCode) (details : List Byte) : List Byte :=
  let a := bodyAddr b
  [Memory.read s.port.mem a, c.byte, Memory.read s.port.mem (a + 2), Memory.read s.port.mem (a + 3)]
    ++ leBytes 2 s.req.serial.toNat ++ details

/-- The completion serial rises by 1, wrapping (R190). -/
def State.nextSerial (s : State) : State := { s with req := { s.req with serial := s.req.serial + 1 } }

/-- A request completes: the outcome record, then DONE; the box leaves the backlog or the TAKEN set, and the
completion is counted (R173, R180, R190). -/
def State.finishBox (s : State) (b : Box) (c : OutcomeCode) (details : List Byte) : State :=
  let p := (s.port.writeBody b (s.outcomeRecord b c details)).writeMap b .done
  ({ s with port := { p with backlog := p.backlog.filter (· ≠ b), taken := p.taken.filter (· ≠ b) } }).nextSerial.completion
    false

/-- A lent box is filled: body, then FILLED; the box leaves the lent pool and the completion is counted
(R173, R187, R189). -/
def State.fillBox (s : State) (b : Box) (record : List Byte) (alarm : Bool) : State :=
  let p := (s.port.writeBody b record).writeMap b .filled
  ({ s with port := { p with lent := p.lent.filter (· ≠ b) } }).nextSerial.completion alarm

/-! ## Deliveries (R187) -/

/-- The delivery record of a frame. Its signal is the level of the frame itself, as R102, R143 and R187 give it and
R73 does not (assumption log entry 59). An originated frame is never delivered here, so its last hop, signal and
arrival read 0. -/
def State.deliveryRecord (s : State) (f : FrameRec) : List Byte :=
  let (hop, signal, arrival) : Addr × BitVec 8 × Tick :=
    match f.source with
    | .relayed h g a => (h, g, a)
    | .originated _ => (0, 0, 0)
  [0x80, BitVec.ofNat 8 f.cls.code] ++ leBytes 2 s.req.serial.toNat ++ leBytes 2 f.origin.toNat
    ++ [f.sequence, BitVec.ofNat 8 f.hopLimit] ++ leBytes 2 f.destination.toNat ++ leBytes 2 hop.toNat
    ++ [signal, BitVec.ofNat 8 f.payload.length] ++ leBytes 4 arrival.toNat ++ f.payload

/-- A frame is written into the given lent box and counted delivered (R113, R187). -/
def State.deliver (s : State) (b : Box) (f : FrameRec) : State :=
  (s.fillBox b (s.deliveryRecord f) (f.cls = .alarm)).countDelivered

/-! ## Notices (R188, R189) -/

/-- The code of a notice. -/
def NoticeEvent.code : NoticeEvent → Nat
  | .parent .. => 1 | .neighborIn .. => 2 | .neighborOut .. => 3 | .mask .. => 4 | .supply .. => 5 | .radioFault .. => 6

/-- The code of an eviction reason. -/
def EvictReason.code : EvictReason → Nat
  | .probation => 1 | .age => 2 | .barred => 3 | .replaced => 4 | .ownAddress => 5

/-- The code of an operation. -/
def OpKind.code : OpKind → Nat
  | .listen => 1 | .send => 2 | .sense => 3 | .resetFrontEnd => 4

/-- The optional fields of a notice, from offset 10. -/
def NoticeEvent.fields : NoticeEvent → List Byte
  | .parent o n u => leBytes 2 o.toNat ++ leBytes 2 n.toNat ++ leBytes 2 u
  | .neighborIn a g => leBytes 2 a.toNat ++ [g]
  | .neighborOut a r => leBytes 2 a.toNat ++ leBytes 1 r.code
  | .mask m e => leBytes 2 m.toNat ++ [e]
  | .supply m => leBytes 1 m.code
  | .radioFault k => leBytes 1 k.code

/-- The notice record, with its overflow flag. -/
def State.noticeRecord (s : State) (n : Notice) : List Byte :=
  [0x81, BitVec.ofNat 8 n.event.code] ++ leBytes 2 s.req.serial.toNat ++ leBytes 1 s.req.overflow.toNat ++ [0]
    ++ leBytes 4 n.tick.toNat ++ n.event.fields

/-- A notice is written into the given lent box; the write clears the overflow mark (R189). -/
def State.writeNotice (s : State) (b : Box) (n : Notice) : State :=
  let r := s.noticeRecord n
  State.fillBox { s with req := { s.req with overflow := false } } b r false

/-- A notice joins the queue, the oldest being dropped from a full one (R189). -/
def State.queueNotice (s : State) (n : Notice) : State :=
  if s.req.notices.length < 8 then { s with req := { s.req with notices := s.req.notices ++ [n] } }
  else
    ({ s with req := { s.req with notices := s.req.notices.drop 1 ++ [n], overflow := true } }).count
      fun c => { c with noticesLost := bump c.noticesLost }

/-- An event raises its notice when its code is enabled: at once into the oldest lent box, or into the queue
(R188, R189). -/
def State.notify (s : State) (e : NoticeEvent) : State :=
  if s.settings.noticeMask.getLsbD (e.code - 1) then
    let n : Notice := { event := e, tick := s.now }
    match s.port.lent with
    | b :: _ => s.writeNotice b n
    | [] => s.queueNotice n
  else s

/-- A box has entered the lent pool and the staging list is empty: the head of the notice queue takes the oldest
lent box (R189). -/
def State.serveNotice (s : State) : State :=
  match s.port.lent, s.req.notices, s.store.staging with
  | b :: _, n :: ns, [] => State.writeNotice { s with req := { s.req with notices := ns } } b n
  | _, _, _ => s

end Sys2Proof.Machine
end

