-- ==== Sys2Proof/Machine/Schedule.lean ====
section
/-! DEFINITION. The channel survey, staged mask changes, the beacon and the supply mode (R22 to R40). -/

namespace Sys2Proof.Machine

/-! ## The survey (R29 to R32) -/

/-- A fresh batch: countdown 16, tally 0 (R29). -/
def SurveyBatch.fresh (c : Nat) : SurveyBatch := { channel := c, countdown := 16, tally := 0 }

/-- The batches after the data channels became `cs`: channels that stay keep theirs, joining ones start afresh and
leaving ones lose theirs (R29, R35). -/
def rebatch (old : List SurveyBatch) (cs : List Nat) : List SurveyBatch :=
  cs.map fun c => (old.find? fun b => b.channel = c).getD (.fresh c)

/-- The apply number of a decision taken at `now`: the number of the next own beacon instant plus 4 (R34). -/
def State.applyNumber (s : State) : Nat :=
  (beaconNumber s.sched.beaconExponent (s.nextOwnBeacon s.now) + 4) % 256

/-- A mask change is decided (R34): dropped, staged, or in place of the pending mask. -/
def State.decideMask (s : State) (m : Mask) : State :=
  let stage := { s with sched := { s.sched with pendingMask := some (m, s.applyNumber) } }
  match s.sched.pendingMask with
  | none => if m = s.sched.mask then s else stage
  | some (p, _) => if m = p then s else stage

/-- The decided mask without `c` would still hold 4 or more data channels (R30). -/
def roomWithout (m : Mask) (beaconChannel c : Nat) : Bool :=
  4 ≤ (dataChannels (maskWithout m c) beaconChannel).length

/-- A channel's batch has ended with `score` (R30): an exclusion is granted, left standing, or not proposed. -/
def State.endBatch (s : State) (c score : Nat) : State :=
  let props := s.sched.proposals.filter fun p => p.channel ≠ c
  let s := { s with sched := { s.sched with proposals := props } }
  if score < 10 || s.sched.exclusions.any (fun e => e.channel = c) then s
  else if roomWithout s.sched.decided s.sched.beaconChannel c then
    State.decideMask
      { s with sched := { s.sched with exclusions := s.sched.exclusions ++ [{ channel := c, holdEnd := none }] } }
      (maskWithout s.sched.decided c)
  else { s with sched := { s.sched with proposals := props ++ [{ channel := c, score := score }] } }

/-- A survey report for a channel is counted while the survey is on (R29); a countdown that reaches 0 ends the
batch. A channel without a batch is outside the data channels and gets none. -/
def State.surveyReport (s : State) (c : Nat) (busy : Bool) : State :=
  if s.settings.survey then
    match s.sched.batches.find? fun b => b.channel = c with
    | none => s
    | some b =>
      let tally := b.tally + busy.toNat
      let put (n : SurveyBatch) : State :=
        { s with sched :=
            { s.sched with batches := s.sched.batches.map fun x => if x.channel = c then n else x } }
      if b.countdown ≤ 1 then (put (.fresh c)).endBatch c tally
      else put { b with countdown := b.countdown - 1, tally := tally }
  else s

/-- The order of standing proposals in contention: the higher score, then the lower channel (R31). -/
def Proposal.before (a b : Proposal) : Bool :=
  b.score < a.score || (a.score == b.score && a.channel < b.channel)

/-- The return of an excluded channel at the end of its hold (R31, R32): the channel is back in the decided mask, the
best standing proposal contends for the room, and both are settled in one mask change. -/
def State.returnChannel (s : State) (c : Nat) : State :=
  let back := maskWith s.sched.decided c
  let rest := s.sched.exclusions.filter fun e => e.channel ≠ c
  match bestBy Proposal.before s.sched.proposals with
  | some p =>
    if roomWithout back s.sched.beaconChannel p.channel then
      State.decideMask
        { s with sched :=
            { s.sched with
              exclusions := rest ++ [{ channel := p.channel, holdEnd := none }]
              proposals := s.sched.proposals.filter fun q => q.channel ≠ p.channel } }
        (maskWithout back p.channel)
    else State.decideMask { s with sched := { s.sched with exclusions := rest } } back
  | none => State.decideMask { s with sched := { s.sched with exclusions := rest } } back

/-- The expiry of a channel's exclusion hold (R32). A channel that the configured mask leaves out only leaves the
exclusion set: the decided mask stays the configured mask without the exclusions (R33; assumption log entry 50). -/
def State.endHold (s : State) (c : Nat) : State :=
  if s.settings.channelMask.getLsbD c then s.returnChannel c
  else { s with sched := { s.sched with exclusions := s.sched.exclusions.filter fun e => e.channel ≠ c } }

/-! ## Applying a mask (R35) and the reset of the mask at RUN (R23) -/

/-- The holds that start when `m` becomes current (R32, R35): those of the excluded channels that `m` leaves out
and whose hold has not started. -/
def State.startHolds (s : State) (m : Mask) : List Exclusion :=
  s.sched.exclusions.map fun e =>
    if e.holdEnd = none && !m.getLsbD e.channel then
      { e with holdEnd := some (s.now + ticks (seconds s.settings.exclusionHold)) }
    else e

/-- The own listen of a beat later than now moves to the beat's channel under the mask now current (R25, R28, R35). -/
def State.retuneListen (s : State) : State :=
  { s with radio := { s.radio with
      timeline := s.radio.timeline.map fun c =>
        if c.kind = .ownListen && 0 < sdiff c.instant s.now then { c with channel := s.ownChannel c.instant } else c } }

/-- `m` becomes the current mask at a beacon instant (R35). -/
def State.makeCurrent (s : State) (m : Mask) : State :=
  let cs := dataChannels m s.sched.beaconChannel
  let s := { s with sched :=
    { s.sched with
      mask := m
      pendingMask := none
      epoch := s.sched.epoch + 1
      batches := rebatch s.sched.batches cs
      exclusions := s.startHolds m
      proposals := s.sched.proposals.filter fun p => cs.contains p.channel } }
  s.retuneListen.notify (.mask s.sched.mask s.sched.epoch)

/-- At the own beacon instant `t` a pending mask whose apply number is the instant's number becomes current (R35). -/
def State.applyPendingAt (s : State) (t : Tick) : State :=
  match s.sched.pendingMask with
  | some (m, x) => if beaconNumber s.sched.beaconExponent t = x then s.makeCurrent m else s
  | none => s

/-- The reset of the mask at a RUN that changes the beacon channel or exponent (R23). -/
def State.resetMask (s : State) : State :=
  let m := s.settings.channelMask
  let s := { s with sched :=
    { s.sched with
      mask := m
      pendingMask := none
      epoch := s.sched.epoch + 1
      batches := (dataChannels m s.sched.beaconChannel).map .fresh
      exclusions := []
      proposals := [] } }
  s.notify (.mask s.sched.mask s.sched.epoch)

/-- The phase a RUN fixes, in units of 512 ticks (R23). -/
def State.runPhase (s : State) : Nat :=
  match s.settings.phase with
  | .units u => u
  | .auto => s.own.toNat % 2 ^ (s.settings.beatExponent - 9)

/-- What RUN fixes until the next RUN (R23). -/
def State.fixSchedule (s : State) : State :=
  let changed := s.settings.beaconChannel ≠ s.sched.beaconChannel ∨ s.settings.beaconExponent ≠ s.sched.beaconExponent
  let s := { s with sched :=
    { s.sched with
      phase := s.runPhase
      beaconExponent := s.settings.beaconExponent
      beaconChannel := s.settings.beaconChannel } }
  if changed then s.resetMask else s

/-! ## Survey changes by SET (R33) -/

/-- Turning the survey off: proposals dropped, exclusion set emptied, the configured mask decided. -/
def State.surveyOff (s : State) : State :=
  State.decideMask { s with sched := { s.sched with proposals := [], exclusions := [] } } s.settings.channelMask

/-- Turning the survey on: fresh batches on every data channel, an empty exclusion set. -/
def State.surveyOn (s : State) : State :=
  { s with sched := { s.sched with batches := s.ownData.map .fresh, exclusions := [] } }

/-! ## The beacon (R27) -/

/-- The grant that goes with an answer or flow of GO: the burst limit; 1 otherwise (R4, R5). -/
def State.grantFor (s : State) (k : AckKind) : Nat :=
  match k with
  | .go => s.settings.burstLimit
  | _ => 1

/-- The beacon of the own beacon instant `t`, built from the state held at that moment (R27). -/
def State.beaconAt (s : State) (t : Tick) : BeaconFrame :=
  { transmitter := s.own
    timestamp := t
    number := beaconNumber s.sched.beaconExponent t
    exponent := s.exponentInUse
    beaconExponent := s.sched.beaconExponent
    phase := s.sched.phase
    halfWindow := s.settings.halfWindow
    channel := s.sched.beaconChannel
    cost := if s.gateway then 0 else s.route.ownU
    parent := if s.gateway then 0 else s.route.parentAt 0
    flow := s.store.flow
    grant := s.grantFor s.store.flow.ackKind
    mask := s.sched.mask
    epoch := s.sched.epoch
    pendingMask := (s.sched.pendingMask.map Prod.fst).getD 0
    applyNumber := (s.sched.pendingMask.map Prod.snd).getD 0 }

/-! ## Supply (R39, R40) -/

/-- The level of a supply mode: high for NORMAL (R39). -/
def SupplyMode.level : SupplyMode → Bool
  | .normal => true
  | .reserve => false

/-- The supply mode of a level. -/
def SupplyMode.ofLevel (high : Bool) : SupplyMode := if high then .normal else .reserve

/-- A debounce run toward `high` that starts now, with the debounce time in force (R39). -/
def State.debounceRun (s : State) (high : Bool) : DebounceRun :=
  { high := high, start := s.now, due := s.now + ticks (seconds s.settings.supplyDebounce) }

/-- The SUPPLY input takes a level (R39): a level change cancels or starts a debounce run. -/
def State.supplyLevel (s : State) (high : Bool) : State :=
  if high = s.sched.supplyHigh then s
  else
    { s with sched :=
        { s.sched with
          supplyHigh := high
          debounce := if high = s.sched.supplyMode.level then none else some (s.debounceRun high) } }

end Sys2Proof.Machine
end

