-- ==== Sys2Proof/Machine/Timing.lean ====
section
/-! DEFINITION. The timing tracker and a neighbor's schedule (chapter 3). The functions here read and answer
records; reporting their changes is Neighbors.lean's. -/

namespace Sys2Proof.Machine

/-! ## Prediction (R42, R43) -/

/-- P(r) from an anchor and a drift (R42): Al + 16Δ + floor((Δ × D + 2^19) / 2^20), modulo 2^36. -/
def predictFrom (ar : Tick) (al : Sixteenth) (drift : Int) (r : Tick) : Sixteenth :=
  let d := sdiff r ar
  al + BitVec.ofInt 36 (16 * d + (d * drift + 524288) / 1048576)

/-- The prediction of a remote instant; none without an anchor or in LAPSED (R42). -/
def Tracker.predict (t : Tracker) (r : Tick) : Option Sixteenth :=
  match t.state, t.anchor with
  | .lapsed, _ => none
  | _, some (ar, al) => some (predictFrom ar al t.drift r)
  | _, none => none

/-- The remote-time estimate R(now) (R43), formed under the same conditions as a prediction. -/
def Tracker.remoteNow (t : Tracker) (now16 : Sixteenth) : Option Tick :=
  match t.state, t.anchor with
  | .lapsed, _ => none
  | _, some (ar, al) =>
    let d := sdiff16 now16 al / 16
    some (ar + BitVec.ofInt 32 (d - (d * t.drift + 8388608) / 16777216))
  | _, none => none

/-! ## Samples (R44 to R50) -/

/-- Where a sample comes from (R44). -/
inductive SampleSource where
  | beacon | ack
deriving DecidableEq, Repr

/-- A new tracker (R41). -/
def Tracker.new : Tracker :=
  { anchor := none, drift := 0, state := .acquire, prevLocked := false, slow := false, inLock := 0, outliers := 0,
    lastSample := none, lapseAge := 0, lockLoss := 0 }

/-- Re-anchoring: the sample becomes the anchor, the drift is kept, the state is ACQUIRE with fast shifts and both
runs 0 (R45, R46). -/
def Tracker.reanchor (t : Tracker) (r : Tick) (m : Sixteenth) (now : Tick) : Tracker :=
  { t with
    anchor := some (r, m), state := .acquire, prevLocked := false, slow := false, inLock := 0, outliers := 0,
    lastSample := some now, lapseAge := 0 }

/-- The slope limit C = 16 + floor(Δ × Kslope / 2^20) (R46). -/
def slopeLimit (k : Nat) (delta : Int) : Int := 16 + delta * k / 1048576

/-- The drift step (R48). -/
def driftStep (drift ec delta : Int) (kd : Nat) : Int :=
  if 1024 ≤ delta then clampInt (-4096) 4096 (drift + tz (tz (ec * 1048576) delta) (2 ^ kd)) else drift

/-- The lock step with the loss-of-lock test, on the unclamped residual (R49, R50). -/
def Tracker.lockStep (t : Tracker) (st : Settings) (e : Int) : Tracker :=
  let run := if e.natAbs ≤ st.lockThreshold then satInc 15 t.inLock else 0
  if t.state = .locked ∧ 4 * st.lockThreshold < e.natAbs then
    { t with state := .acquire, slow := false, inLock := 0, lockLoss := satInc 15 t.lockLoss }
  else
    { t with
      inLock := run
      slow := t.slow || decide (st.lockCount / 2 ≤ run)
      state := if st.lockCount ≤ run ∧ t.state = .acquire then .locked else t.state }

/-- Return from HOLDOVER to the previous state (R45). -/
def Tracker.leaveHoldover (t : Tracker) : Tracker :=
  if t.state = .holdover then { t with state := if t.prevLocked then .locked else .acquire, prevLocked := false }
  else t

/-- What became of a sample. -/
inductive SampleFate where
  | discarded | accepted | reanchored
deriving DecidableEq, Repr

/-- An accepted sample against an anchor, outside LAPSED and HOLDOVER (R46 to R50): residual, anchor, drift and
lock steps, or the re-anchoring of the third outlier in a row. -/
def Tracker.step (t : Tracker) (st : Settings) (ar : Tick) (al : Sixteenth) (r : Tick) (m : Sixteenth) (now : Tick) :
    Tracker × SampleFate :=
  let delta := sdiff r ar
  let p := predictFrom ar al t.drift r
  let e := sdiff16 m p
  let c := slopeLimit st.slopeLimit delta
  let outlier : Bool := c < e.natAbs
  if outlier && 2 ≤ t.outliers then
    ({ t.reanchor r m now with
        lockLoss := if t.state = .locked then satInc 15 t.lockLoss else t.lockLoss }, .reanchored)
  else
    let ec := clampInt (-c) c e
    let ka := if t.slow then st.slowAnchorShift else st.fastAnchorShift
    let kd := if t.slow then st.slowDriftShift else st.fastDriftShift
    let t' := { t with
      outliers := if outlier then t.outliers + 1 else 0
      anchor := some (r, p + BitVec.ofInt 36 (tz ec (2 ^ ka)))
      drift := driftStep t.drift ec delta kd
      lastSample := some now }
    (t'.lockStep st e, .accepted)

/-- A sample is taken according to the tracker's state (R45). -/
def Tracker.sample (t : Tracker) (st : Settings) (src : SampleSource) (r : Tick) (m : Sixteenth) (now : Tick) :
    Tracker × SampleFate :=
  match t.state, t.anchor with
  | .lapsed, _ =>
    match src with
    | .beacon => (t.reanchor r m now, .reanchored)
    | .ack => (t, .discarded)
  | _, none => ({ t with anchor := some (r, m), lastSample := some now }, .accepted)
  | _, some (ar, al) =>
    if sdiff r ar ≤ 0 then (t, .discarded) else t.leaveHoldover.step st ar al r m now

/-! ## Holdover and lapse (R51) -/

/-- Entry to LAPSED (R51): the anchor, drift, shift phase, runs and lock-loss count are kept. -/
def Tracker.lapse (t : Tracker) : Tracker :=
  { t with state := .lapsed, prevLocked := false, lastSample := none, lapseAge := 0 }

/-- The aging of a tracker at the sweep (R51). -/
def Tracker.age (t : Tracker) (st : Settings) (now : Tick) : Tracker :=
  match t.state with
  | .lapsed => { t with lapseAge := satInc 65535 t.lapseAge }
  | state =>
    match t.lastSample with
    | none => t
    | some last =>
      let age := sdiff now last
      if (seconds st.holdoverLimit : Int) < age then t.lapse
      else if state = .holdover then t
      else if (seconds st.holdoverEntry : Int) ≤ age then
        { t with state := .holdover, prevLocked := decide (state = .locked) }
      else t

/-! ## The guard (R53) -/

/-- The rate U of the guard by state (R53). A LAPSED tracker has no guard; its value is not read. -/
def TrackerState.rate : TrackerState → Nat
  | .acquire => 3355 | .locked => 839 | .holdover => 1678 | .lapsed => 0

/-- The guard at a remote instant, in sixteenths: 8 + floor(|Δ| × U / 2^20) (R53). -/
def Tracker.guardAt (t : Tracker) (b : Tick) : Nat :=
  match t.anchor with
  | some (ar, _) => 8 + (sdiff b ar).natAbs * t.state.rate / 1048576
  | none => 8

/-! ## Rendezvous and beacon instants (R55 to R57) -/

/-- The first beat of a schedule not before `lo` that is not a beacon instant (R55). -/
def Schedule.beatFrom (c : Schedule) (lo : Tick) : Tick :=
  let b := latticeFrom c.exponent c.phase lo
  if onLattice c.beaconExponent c.phase b then b + ticks (2 ^ c.exponent) else b

/-- The later of two instants by their signed difference. -/
def later (a b : Tick) : Tick := if 0 ≤ sdiff a b then a else b

/-- The next rendezvous instant (R55): 64 ticks of lead on R(now), and later than a lost-beat mark that R(now) has
not passed (R122). -/
def Neighbor.nextRendezvous (r : Neighbor) (now16 : Sixteenth) (mark : Option Tick) : Option Tick := do
  let c ← r.schedule
  let here ← r.tracker.remoteNow now16
  let lo := here + 64
  match mark with
  | some m => if reached here m then some (c.beatFrom lo) else some (c.beatFrom (later lo (m + 1)))
  | none => some (c.beatFrom lo)

/-- The mask a rendezvous at `b` falls under (R56). -/
def Schedule.maskAt (c : Schedule) (b : Tick) : Mask :=
  match c.pending with
  | some p => if reached b p.instant then p.mask else c.mask
  | none => c.mask

/-- The channel of a rendezvous at `b` (R56). -/
def Neighbor.channelAt (r : Neighbor) (b : Tick) : Nat :=
  match r.schedule with
  | some c => beatChannel r.address (c.maskAt b) c.beaconChannel b
  | none => 0

/-- The next beacon instant (R57), later than the last-tried instant where that is not before it (R161). None in
LAPSED, before the first sample, or without a stored schedule. -/
def Neighbor.nextBeacon (r : Neighbor) (now16 : Sixteenth) : Option Tick := do
  let c ← r.schedule
  let here ← r.tracker.remoteNow now16
  let b := latticeFrom c.beaconExponent c.phase (here + 64)
  match r.lastTried with
  | some l => if 0 < sdiff b l then some b else some (latticeFrom c.beaconExponent c.phase (l + 1))
  | none => some b

/-! ## Schedule knowledge (R58 to R61) -/

/-- A stored pending mask comes into force when the remote instant has reached its apply instant (R59). -/
def Neighbor.applyPending (r : Neighbor) (here : Tick) : Neighbor :=
  match r.schedule with
  | some c =>
    match c.pending with
    | some p =>
      if reached here p.instant then
        { r with schedule := some { c with mask := p.mask, epoch := c.epoch + 1, pending := none } }
      else r
    | none => r
  | none => r

/-- R59 against R(now); skipped while the tracker is LAPSED. -/
def Neighbor.applyPendingNow (r : Neighbor) (now16 : Sixteenth) : Neighbor :=
  match r.tracker.remoteNow now16 with
  | some here => r.applyPending here
  | none => r

/-- A beacon's schedule values are usable (R61), and agree with one another (R148). -/
def BeaconFrame.usable (b : BeaconFrame) : Bool :=
  9 ≤ b.exponent && b.exponent ≤ 16 && b.beaconExponent ≤ 20 && 512 * b.phase < 2 ^ b.exponent
    && 4 ≤ (dataChannels b.mask b.channel).length
    && b.timestamp.toNat % 2 ^ b.beaconExponent == 512 * b.phase
    && b.number == beaconNumber b.beaconExponent b.timestamp

/-- The pending mask a record holds after a usable beacon (R58, R61). -/
def BeaconFrame.staged (b : BeaconFrame) : Option PendingMask :=
  let k := (b.applyNumber + 256 - b.number % 256) % 256
  if b.pendingMask ≠ 0 && 4 ≤ (dataChannels b.pendingMask b.channel).length && k ≠ 0 then
    some { mask := b.pendingMask, number := b.applyNumber, instant := b.timestamp + ticks (k * 2 ^ b.beaconExponent) }
  else none

/-- The schedule a usable beacon carries (R58). -/
def BeaconFrame.schedule (b : BeaconFrame) : Schedule :=
  { exponent := b.exponent, phase := 512 * b.phase, halfWindow := b.halfWindow, beaconExponent := b.beaconExponent,
    beaconChannel := b.channel, mask := b.mask, epoch := b.epoch, pending := b.staged }

/-- The refresh of a record's schedule by a beacon (R58, R61): a usable beacon replaces it and clears the stale
flag; an unusable one makes the record schedule-stale, stores nothing and leaves no pending mask (R148). -/
def Neighbor.refreshSchedule (r : Neighbor) (b : BeaconFrame) : Neighbor :=
  if b.usable then { r with schedule := some b.schedule, stale := false }
  else { r with schedule := r.schedule.map fun c => { c with pending := none }, stale := true }

/-- An ACK's exponent and epoch (R60, R61): an exponent that cannot be planned with makes the record stale and is
not stored; an epoch that differs from the stored one makes it stale. -/
def Neighbor.ackSchedule (r : Neighbor) (exponent : Nat) (epoch : Byte) : Neighbor :=
  match r.schedule with
  | none => r
  | some c =>
    let good : Bool := 9 ≤ exponent && exponent ≤ 16 && c.phase < 2 ^ exponent
    let c' := if good then { c with exponent := exponent } else c
    { r with schedule := some c', stale := r.stale || !good || c.epoch ≠ epoch }

end Sys2Proof.Machine
end

