-- ==== Sys2Proof/Machine/Arbiter.lean ====
section
/-! DEFINITION. The radio port's operations, the radio timeline and the arbiter (R152 to R159), and the claims of the
Schedule Unit (R25, R26). A claim that is lost is handed to its owner by a mark in `Work` where the owner's part is
longer than one field: the plan's end (R128) and the next own listen (R25). -/

namespace Sys2Proof.Machine

/-! ## Operations (R152, R153) -/

/-- Rewrite the radio block. -/
def State.radioWith (s : State) (f : Radio → Radio) : State := { s with radio := f s.radio }

/-- An operation is issued (R152). At most one is outstanding, so while the report of a cut LISTEN is still to come the
operation waits for it (assumption log entry 16). -/
def State.issue (s : State) (o : Operation) : State :=
  s.radioWith fun r => if r.op.isSome then { r with waiting := some o } else { r with op := some o }

/-- Issue a LISTEN over a window (R152); its response falls due at the window end. -/
def State.listen (s : State) (p : Purpose) (channel : Nat) (start stop : Tick) : State :=
  s.issue
    { kind := .listen, purpose := p, channel, start, stop, start16 := ofTick start, bytes := [], started := none,
      due := stop, cut := false }

/-- Issue a SEND that starts at an instant (R152); its response falls due at the frame's end. -/
def State.send (s : State) (p : Purpose) (channel : Nat) (start : Sixteenth) (bytes : List Byte) : State :=
  let stop := tickOf (start + sixteenths (16 * airtime bytes.length))
  s.issue
    { kind := .send, purpose := p, channel, start := tickOf start, stop, start16 := start, bytes, started := none,
      due := stop, cut := false }

/-- Issue a SENSE or a RESET-FRONT-END, due at issue (R152). -/
def State.issueNow (s : State) (k : OpKind) (p : Purpose) (channel : Nat) : State :=
  s.issue
    { kind := k, purpose := p, channel, start := s.now, stop := s.now, start16 := s.now16, bytes := [],
      started := none, due := s.now, cut := false }

/-- Issue a RESET-FRONT-END (R152). It is the one operation outstanding: no earlier report is waited for, and nothing
waits. -/
def State.resetFrontEnd (s : State) : State :=
  (s.radioWith fun r => { r with op := none, waiting := none }).issueNow .resetFrontEnd .resetFrontEnd 0

/-- A response at `now` is in time: no later than 131 ticks after the due moment (R153). -/
def Operation.inTime (o : Operation) (now : Tick) : Bool := sdiff now o.due ≤ 131

/-- The outstanding operation, when it serves `p`, is not cut, and a response taken now is in time. -/
def State.answering (s : State) (p : Purpose) : Option Operation :=
  s.radio.op.filter fun o => o.purpose = p && !o.cut && o.inTime s.now

/-- A LISTEN, SEND or SENSE has been answered in time: it is over and the strike flag is clear (R153). -/
def State.answered (s : State) : State := s.radioWith fun r => { r with op := none, strike := false }

/-- The operation that serves an exchange or a listen: the one outstanding, or the one that waits for the report of a cut
LISTEN. -/
def Radio.serving (r : Radio) : Option Operation :=
  match r.op with
  | some o => if o.cut then (if o.kind = .listen then r.waiting else none) else some o
  | none => none

/-- A LISTEN that has indicated no frame start and is not cut. -/
def Operation.isOpen (o : Operation) : Bool := o.kind = .listen && o.started = none && !o.cut

/-- A LISTEN cut at `now`: its window ends at that moment, or where it had ended before, and its report falls due then; it
serves nobody any more (R152). -/
def Operation.cutAt (o : Operation) (now : Tick) : Operation :=
  let e := if reached now o.stop then o.stop else now
  { o with stop := e, due := e, cut := true }

/-- The open LISTEN without a reception is ended now (R152); one that still waits to be issued is not issued. -/
def State.cutListen (s : State) : State :=
  s.radioWith fun r =>
    match r.op with
    | some o => if o.cut then { r with waiting := none } else { r with op := some (o.cutAt s.now) }
    | none => r

/-- The LISTEN that serves `p` is open: it has indicated no frame start, or still waits to be issued. -/
def State.openListen (s : State) (p : Purpose) : Bool := s.radio.serving.any fun o => o.isOpen && o.purpose = p

/-! ## Holds (R157) -/

/-- The receiver is in a rendezvous or a reception of one. -/
def Recv.holds (r : Recv) : Bool :=
  match r.state with
  | .idle => false
  | .listening => false
  | _ => true

/-- A reception, a burst, a receiving rendezvous, a SENSE or a RESET-FRONT-END holds the radio (R157). -/
def State.radioHeld (s : State) : Bool :=
  (match s.radio.op with
    | some o => o.started.isSome || o.kind = .sense || o.kind = .resetFrontEnd
    | none => false)
    || s.planner.tx ≠ .idle || s.recv.holds

/-- The radio cannot be given to a claim whose window starts now: it is held, or an operation other than a census or
discovery segment, or a LISTEN already cut, is still unanswered, or one waits already (assumption log entry 15). A lower
refresh listen has ended before (`State.yieldTo`). -/
def State.radioBusy (s : State) : Bool :=
  s.radioHeld || s.radio.waiting.isSome ||
    match s.radio.op with
    | some o => !o.cut && o.purpose ≠ .segment
    | none => false

/-! ## Segments of a census or discovery (R37, R38, R159) -/

/-- Listening time up to `upto` counts toward the span of the census or discovery (R37, R38); that of a segment whose
own census or discovery is over counts toward none. -/
def State.countSegment (s : State) (o : Operation) (upto : Tick) : State :=
  if o.orphan then s
  else
    { s with sched := { s.sched with
        long := s.sched.long.map fun l => { l with counted := l.counted + (sdiff upto o.start).toNat } } }

/-- The listening time of a census or discovery counted by now (R37, R38): that of the segments that have ended, and that
of the one under way, with a reception it has begun; an open window that is over counts to its end. -/
def State.listened (s : State) (l : LongListen) : Nat :=
  match s.radio.op with
  | some o =>
    if o.kind = .listen && o.purpose = .segment && !o.cut && !o.orphan then
      l.counted + (sdiff (if o.started.isSome then s.now else (o.cutAt s.now).stop) o.start).toNat
    else l.counted
  | none => l.counted

/-- A segment that is open without a reception ends now; its time counts, up to now or to the end its window had before
(R159). -/
def State.cutSegment (s : State) : State :=
  match s.radio.op with
  | some o =>
    if o.isOpen && o.purpose = .segment then (s.countSegment o (o.cutAt s.now).stop).cutListen else s
  | none => s

/-! ## Claims (R155, R156) -/

/-- The rank of a claim, 1 the highest (R156). -/
def ClaimKind.rank : ClaimKind → Nat
  | .ownBeacon => 1
  | .alarmTransmission => 2
  | .ownListen => 3
  | .refreshListen => 4
  | .otherTransmission => 5
  | .census => 6
  | .discovery => 6

/-- A transmission claim. -/
def ClaimKind.isTransmission : ClaimKind → Bool
  | .alarmTransmission => true
  | .otherTransmission => true
  | _ => false

/-- A census or discovery claim, which is paused and never taken away (R156). -/
def ClaimKind.isLong : ClaimKind → Bool
  | .census => true
  | .discovery => true
  | _ => false

/-- The claim's window has not ended before `t`. -/
def Claim.lastsTo (c : Claim) (t : Tick) : Bool :=
  match c.stop with
  | some e => reached e t
  | none => true

/-- Two windows overlap when they share any tick (R156). -/
def Claim.overlaps (a b : Claim) : Bool := a.lastsTo b.start && b.lastsTo a.start

/-- The purpose of the operation that serves a listening claim. -/
def Claim.purpose (c : Claim) : Option Purpose :=
  match c.kind with
  | .ownListen => some .ownListen
  | .refreshListen => some (.refresh c.owner)
  | .census => some .segment
  | .discovery => some .segment
  | .ownBeacon => some .beaconSend
  | _ => none

/-- What can hold the radio for a claim (R155, R157). -/
inductive Hold where
  | reception | burst | sense | reset
deriving DecidableEq, Repr

/-- What holds the radio for a claim now, R155's hold field (R157): its burst, its reception, the SENSE of an own
listen whose window has begun (R29), the front-end reset that a census or discovery waits for (R38; assumption log
entry 51). -/
def Claim.holding (c : Claim) (s : State) : Option Hold :=
  if c.kind.isTransmission then (if s.planner.state = .burst then some .burst else none)
  else
    match s.radio.op with
    | some o =>
      if c.purpose = some o.purpose && o.started.isSome then some .reception
      else if c.kind = .ownListen && o.purpose = .survey && reached s.now c.start then some .sense
      else if c.kind.isLong && o.kind = .resetFrontEnd then some .reset
      else none
    | none => none

/-- The claim holds the radio now. -/
def Claim.hold (c : Claim) (s : State) : Bool := (c.holding s).isSome

/-- Rewrite the timeline. -/
def State.timelineWith (s : State) (f : List Claim → List Claim) : State :=
  s.radioWith fun r => { r with timeline := f r.timeline }

/-- Remove the claims that a test names. -/
def State.dropClaims (s : State) (p : Claim → Bool) : State := s.timelineWith fun l => l.filter fun c => !p c

/-- The order of the timeline: by window start, the earlier first (R155). -/
def Claim.before (a b : Claim) : Bool := sdiff a.start b.start < 0

/-- After the own listen of beat `t` is lost, the next one is to be placed for a later beat (R25, R158). -/
def State.callListen (s : State) (t : Tick) : State := { s with work := { s.work with placeListen := some t } }

/-- The own listen of a claim is skipped: the beat counts as missed and the next is to be placed (R158). An open
window ends. -/
def State.skipListen (s : State) (c : Claim) : State :=
  let s := s.countMissed.callListen c.instant
  if s.openListen .ownListen then { s.cutListen with recv := {} } else s

/-- A claim taken away from the timeline, or lost to a hold, is handed to its owner (R158). A beacon claim lost is
followed by the next one by the caller. -/
def State.loseClaim (s : State) (c : Claim) : State :=
  let s := s.dropClaims (· = c)
  match c.kind with
  | .ownListen => s.skipListen c
  | .alarmTransmission => { s with work := { s.work with planLost := true } }
  | .otherTransmission => { s with work := { s.work with planLost := true } }
  | .refreshListen => if s.openListen (.refresh c.owner) then s.cutListen else s
  | _ => s

/-- The window of a claim begins: a refresh listen that is open without a reception ends for a claim above it, whose
window it could share because it held a reception when that claim was granted (R156, R157). -/
def State.yieldTo (s : State) (c : Claim) : State :=
  (s.radio.timeline.filter fun v =>
    v.kind = .refreshListen && c.kind.rank < v.kind.rank && s.openListen (.refresh v.owner)).foldl State.loseClaim s

/-- The radio for a claim whose window begins now, a lower listen and an open segment ended for it; none while the radio
is busy, when the claim is lost (R156, R157, R159). -/
def State.radioFor (s : State) (c : Claim) : Option State :=
  let y := s.yieldTo c
  if y.radioBusy then none else some y.cutSegment

/-- A granted claim joins the timeline; an open segment is shortened to the claim's window start, or to now if that
is later; one whose window is over stays as it is (R159). -/
def State.grant (s : State) (c : Claim) : State :=
  s.radioWith fun r => { r with
    timeline := insertBy Claim.before c r.timeline
    op := r.op.map fun o =>
      if o.kind = .listen && o.purpose = .segment && o.started = none && !o.cut && !c.kind.isLong
          && sdiff (later c.start s.now) o.stop < 0 then
        { o with stop := later c.start s.now, due := later c.start s.now }
      else o }

/-- A claim is requested (R156): refused when it overlaps a claim of higher or equal rank; otherwise the overlapping
claims of lower rank without a hold are taken away, and it is granted. A census or discovery is granted at once: it is
paused over every overlap and never refused for one (R37, R156, R159). -/
def State.request (s : State) (c : Claim) : Bool × State :=
  let hit := s.radio.timeline.filter c.overlaps
  if c.kind.isLong then (true, s.grant c)
  else if hit.any fun o => o.kind.rank ≤ c.kind.rank then (false, s)
  else
    let victims := hit.filter fun o => !o.kind.isLong && !o.hold s
    (true, (victims.foldl State.loseClaim s).grant c)

/-! ## The Schedule Unit's claims (R25, R26) -/

/-- Claims are placed while the engine is RUNNING and no stop is pending (R25, R26, R164). -/
def State.placing (s : State) : Bool := s.radio.engine = .running && !s.radio.stopPending

/-- The own-listen claim of the beat `t`: t − L to t + L on the beat channel of t (R25). -/
def State.listenClaim (s : State) (t : Tick) : Claim :=
  let l := ticks s.settings.halfWindow
  { kind := .ownListen, start := t - l, stop := some (t + l), channel := s.ownChannel t, owner := 0, instant := t }

/-- Request own-listen claims from `lo` on until one is granted: a refused beat is skipped and counted missed
(R25, R158). Every refusal comes from one of at most two higher claims on the timeline, so few rounds are made. A beat
skipped before is not remembered: one whose window has still to open is asked for again by a later placing, and counted
missed again where it is refused again (assumption log entry 76). -/
def State.requestListen : Nat → Tick → State → State
  | 0, _, s => s
  | n + 1, lo, s =>
    match s.nextOwnListen lo with
    | none => s
    | some t =>
      match s.request (s.listenClaim t) with
      | (true, s') => s'
      | (false, s') => State.requestListen n (t + 1) s'.countMissed

/-- Place the own-listen claim (R25): for the earliest own beat whose window has not opened and that lies after
`after`, in place of the claim held. -/
def State.placeListen (s : State) (after : Option Tick) : State :=
  let s := s.dropClaims fun c => c.kind = .ownListen
  let s := { s with work := { s.work with placeListen := none } }
  if s.placing then
    let lo := s.now + ticks s.settings.halfWindow
    let lo := match after with
      | some t => later lo (t + 1)
      | none => lo
    s.requestListen 16 lo
  else s

/-- The SENSE of an own listen window is under way (R29). -/
def State.sensing (s : State) : Bool := s.radio.op.any fun o => o.purpose = .survey

/-- An own-listen claim whose window has not opened is placed afresh (R25, R40): the exponent in use, the phase or L
has changed. A window already open runs on, its SENSE included. A beat skipped before may be asked for and counted missed
once more (assumption log entry 76). -/
def State.replaceListen (s : State) : State :=
  if s.recv.state = .listening || s.openListen .ownListen || s.sensing then s
  else if s.recv.state = .receiving && s.recv.record = none then s
  else s.placeListen none

/-- Place the beacon claim for the first own beacon instant later than now: from the instant to the end of the
beacon's airtime, on the beacon channel in use (R26). -/
def State.placeBeacon (s : State) : State :=
  let s := s.dropClaims fun c => c.kind = .ownBeacon
  if s.placing then
    let t := s.nextOwnBeacon s.now
    (s.request
      { kind := .ownBeacon, start := t, stop := some (t + ticks (airtime beaconLength)),
        channel := s.sched.beaconChannel, owner := 0, instant := t }).2
  else s

/-- A claim lost to a hold, with what its owner does at once (R157, R158). -/
def State.loseToHold (s : State) (c : Claim) : State :=
  match c.kind with
  | .ownBeacon => (s.loseClaim c).placeBeacon
  | _ => s.loseClaim c

/-- With a stop pending the claims that hold no hold, or none any more, are withdrawn (R164). -/
def State.withdrawFree (s : State) : State := if s.radio.stopPending then s.dropClaims fun c => !c.hold s else s

/-- A hold begins: the claims whose window has already begun and not yet ended, other than the one served and a census
or discovery, are lost (R157). One that would outlast the hold is lost as a whole (assumption log entry 72). -/
def State.loseBegun (s : State) (served : Claim → Bool) : State :=
  (s.radio.timeline.filter fun c =>
    reached s.now c.start && c.lastsTo s.now && !c.kind.isLong && !served c && !c.hold s).foldl State.loseToHold s

/-- A reception that a segment has begun goes on when its census or discovery ends, and counts toward no later one
(R37). -/
def State.orphanSegment (s : State) : State :=
  s.radioWith fun r => { r with
    op := r.op.map fun o => if o.purpose = .segment && o.started.isSome then { o with orphan := true } else o }

/-- End a census or discovery in progress with its claim (R37, R38). An open segment without a reception is cut. -/
def State.endLong (s : State) : State :=
  let s := s.cutSegment.orphanSegment
  (s.dropClaims fun c => c.kind.isLong) |> fun s => { s with sched := { s.sched with long := none } }

/-- Begin a census or discovery: a listen of the lowest rank without an end, on the beacon channel in use, in place of any
before (R37, R38). -/
def State.beginLong (s : State) (discovery : Bool) (span : Nat) : State :=
  let s := s.dropClaims fun c => c.kind.isLong
  let s := { s with sched := { s.sched with
    long := some { discovery := discovery, span := span, counted := 0, waiting := false } } }
  (s.request
    { kind := if discovery then .discovery else .census, start := s.now, stop := none,
      channel := s.sched.beaconChannel, owner := 0, instant := s.now }).2

/-- The start of the next window, after now, of a claim of higher rank than a census or discovery (R159). -/
def State.nextHigherStart (s : State) : Option Tick :=
  (s.radio.timeline.find? fun c => !c.kind.isLong && 0 < sdiff c.start s.now).map (·.start)

/-- The open windows of claims of higher rank than a census or discovery (R159). -/
def State.higherOpen (s : State) : Bool :=
  s.radio.timeline.any fun c => !c.kind.isLong && reached s.now c.start && c.lastsTo s.now

/-- The end of a segment that starts now (R159): the earliest of the next higher window, the span and, for a census,
the census interval expiry. -/
def State.segmentEnd (s : State) (l : LongListen) : Tick :=
  let e := s.now + ticks (l.span - l.counted)
  let e := match s.nextHigherStart with
    | some h => if sdiff h e < 0 then h else e
    | none => e
  if !l.discovery && sdiff s.sched.censusDue e < 0 then s.sched.censusDue else e

end Sys2Proof.Machine
end

