-- ==== Sys2Proof/Machine/Neighbors.lean ====
section
/-! DEFINITION. Questions asked of a neighbor record and what they and the air change in it, with the reports they
raise (R52, R54, R67, R73 to R79). -/

namespace Sys2Proof.Machine

/-! ## The expiry of a hold (R76) -/

/-- The hold of a record has expired: now − expiry ≥ 0 (R76). -/
def Neighbor.holdExpired (r : Neighbor) (now : Tick) : Bool :=
  match r.hold with
  | some e => reached now e
  | none => false

/-- The expiry test of R76: an expired held flag is cleared and the change reported. -/
def State.testHold (s : State) (a : Addr) : State :=
  match s.nbrOf a with
  | some r =>
    if r.holdExpired s.now then (s.updNbr a fun r => { r with hold := none }).reportTarget else s
  | none => s

/-- Held is set or cleared by what the neighbor said (R76); a renewed expiry is no change of the flag. -/
def State.setHeld (s : State) (a : Addr) (held : Bool) : State :=
  match s.nbrOf a with
  | some r =>
    let s' := s.updNbr a fun r =>
      { r with hold := if held then some (s.now + ticks (seconds s.settings.holdLifetime)) else none }
    if r.hold.isSome = held then s' else s'.reportTarget
  | none => s

/-! ## The timing test (R54) and the sendable question (R79) -/

/-- The record of `a` has lapsed or become stale: a refresh claim it holds is overtaken (R161). -/
def State.overtake (s : State) (a : Addr) : State :=
  s.timelineWith fun l =>
    l.map fun c => if c.kind = .refreshListen && c.owner = a then { c with overtaken := true } else c

/-- The tracker of a record becomes LAPSED; the last-tried instant goes, a refresh claim is overtaken (R161) and the
change is reported (R52). -/
def State.lapseNbr (s : State) (a : Addr) : State :=
  ((s.updNbr a fun r => { r with tracker := r.tracker.lapse, lastTried := none }).overtake a).reportTracker

/-- The greatest guard a listen half-window allows, in sixteenths (R54). -/
def guardLimit (halfWindow : Nat) : Nat := 16 * halfWindow - 16

/-- The timing test (R54), with case 4 judged at `at?` where it is given (R125) and at the next rendezvous instant
otherwise. A failure by case 4 makes the tracker LAPSED. The stored pending mask is applied first (R59). -/
def State.timingTest (s : State) (a : Addr) (at? : Option Tick) : Bool × State :=
  let s := s.updNbr a fun r => r.applyPendingNow s.now16
  match s.nbrOf a with
  | none => (false, s)
  | some r =>
    match r.schedule with
    | none => (false, s)
    | some c =>
      if r.tracker.state = .lapsed || r.stale || c.beaconExponent ≤ c.exponent then (false, s)
      else
        match at?.or (r.nextRendezvous s.now16 none) with
        | none => (false, s)
        | some b => if guardLimit c.halfWindow < r.tracker.guardAt b then (false, s.lapseNbr a) else (true, s)

/-- A plan's target with the instant it aims at, the instant its guard is judged at while the plan freezes (R125). -/
abbrev Aim := Addr × Tick

/-- The sendable question for a frame of a class (R79): a record, not barred, the timing test, and not held unless
the class is ALARM, after the expiry test. At freezing the guard of the plan's target is judged at `aim`, the plan's own
instant (R125; assumption log entry 49). -/
def State.ask (s : State) (a : Addr) (c : FrameClass) (aim : Option Aim := none) : Bool × State :=
  if (s.nbrOf a).isNone || s.nbr.bars.contains a then (false, s)
  else
    let s := s.testHold a
    match s.timingTest a ((aim.filter (·.1 = a)).map (·.2)) with
    | (false, s) => (false, s)
    | (true, s) => (c = .alarm || ((s.nbrOf a).bind (·.hold)).isNone, s)

/-! ## Samples and schedule values (R44, R60, R67) -/

/-- A timing sample is taken by a record's tracker (R45); a first entry into LOCKED promotes the record (R67), a
re-anchoring removes the last-tried instant (R161), and what happened is reported (R52). R107 counts re-anchoring by a
beacon among the changes of a tracker's state, so one that leaves ACQUIRE as it was is reported as a change too
(assumption log entry 52). -/
def State.takeSample (s : State) (a : Addr) (src : SampleSource) (r : Tick) (m : Sixteenth) : State :=
  match s.nbrOf a with
  | none => s
  | some n =>
    match n.tracker.sample s.settings src r m s.now with
    | (_, .discarded) => s
    | (t, fate) =>
      let s := s.updNbr a fun n =>
        { n with
          tracker := t
          active := n.active || decide (t.state = .locked)
          lastTried := if fate = .reanchored then none else n.lastTried }
      if t.state = n.tracker.state ∧ fate ≠ .reanchored then s.callRecompute else s.reportTracker

/-- A record whose stale flag has been set or cleared since `was` is reported (R52, R60, R107); when it has been set, a
refresh claim is overtaken (R161). -/
def State.reportStale (s : State) (a : Addr) (was : Bool) : State :=
  match s.nbrOf a with
  | some r => if r.stale = was then s else (if r.stale then s.overtake a else s).reportTarget
  | none => s

/-- The schedule part of ACK intake (R59, R60): the pending mask is judged at the rendezvous instant, of a LAPSED tracker
as of any other (assumption log entry 60), then the exponent and the epoch are taken. -/
def State.takeAckSchedule (s : State) (a : Addr) (b : Tick) (k : AckFrame) : State :=
  match s.nbrOf a with
  | none => s
  | some r =>
    (s.updNbr a fun r => (r.applyPending b).ackSchedule k.exponent k.epoch).reportStale a r.stale

/-! ## Signal, link quality, grant (R73 to R75, R77) -/

/-- The signal average moves by tz((s − avg) / 8) (R73). -/
def State.takeSignal (s : State) (a : Addr) (level : BitVec 8) : State :=
  s.updNbr a fun r => { r with signal := r.signal + tz (level.toInt - r.signal) 8 }

/-- The link cost of an estimate Q (R75). -/
def linkCost (q : Nat) : Nat := if q < 256 then 256 else 65536 / q

/-- The Q update of R74: Q + tz((s − Q) / 2^k), with k 2 below eight updates and 4 from then on. -/
def qStep (q updates : Nat) (acked : Bool) : Nat :=
  let target : Int := if acked then 4095 else 0
  ((q : Int) + tz (target - q) (if updates < 8 then 4 else 16)).toNat

/-- The grant of the last accepted ACK or beacon (R77); the reader of the frame has clamped it to 1 … 4. -/
def State.takeGrant (s : State) (a : Addr) (g : Nat) : State := s.updNbr a fun r => { r with grant := g }

end Sys2Proof.Machine
end

