-- ==== Sys2Proof/Machine/Paths.lean ====
section
/-! DEFINITION. Parents, path cost, poison, trails and next-hop resolution (chapter 5). -/

namespace Sys2Proof.Machine

/-! ## Candidates (R82, R83) -/

/-- The candidate cost K (R83). -/
def candidateCost (st : Settings) (r : Neighbor) : Nat :=
  min 4095 (r.cost + linkCost r.q + st.hopPenalty + (if r.untried then 16 else 0)
    + (if st.unsteady ≤ r.tracker.lockLoss then 32 else 0))

/-- A parent candidate (R82). In the gateway role no record is one. -/
def isCandidate (st : Settings) (r : Neighbor) : Bool :=
  !st.gateway && r.active && r.tracker.state ≠ .lapsed && r.cost < 4095 && r.parent ≠ st.ownAddress
    && !r.poisoned && candidateCost st r < 4095

/-- The candidates with their costs (R84). -/
def State.candidates (s : State) : List Parent :=
  (s.nbr.records.filter (isCandidate s.settings)).map fun r =>
    { address := r.address, cost := candidateCost s.settings r }

/-- The ranking order: lower cost, then lower address (R84, R85). -/
def Parent.before (a b : Parent) : Bool := a.cost < b.cost || (a.cost == b.cost && a.address.toNat < b.address.toNat)

/-! ## Route review (R84 to R88) -/

/-- The first parent a review decides (R84), from the candidates and the first parent before the review. -/
def chooseFirst (hysteresis : Nat) (cands : List Parent) (former : Option Addr) : Option Parent :=
  match cands.find? fun p => some p.address = former with
  | none => bestBy Parent.before cands
  | some f =>
    match bestBy Parent.before (cands.filter fun p => p.address ≠ f.address) with
    | some b => if b.cost + hysteresis < f.cost then some b else some f
    | none => some f

/-- The parent set of a review (R84, R85): the first parent, then the two cheapest of the others. -/
def chooseParents (hysteresis : Nat) (cands : List Parent) (former : Option Addr) : List Parent :=
  match chooseFirst hysteresis cands former with
  | none => []
  | some f => f :: (sortBy Parent.before (cands.filter fun p => p.address ≠ f.address)).take 2

/-- The address of the first parent, 0x0000 for none (R87). -/
def firstParent (ps : List Parent) : Addr := (ps.head?.map (·.address)).getD 0

/-- Own U after a review (R85, R86). -/
def ownCost (gateway : Bool) (ps : List Parent) : Nat :=
  if gateway then 0 else (ps.head?.map (·.cost)).getD 4095

/-- Route review (R84 to R87): the parent set and own U are recomputed, a change is reported to the Frame Store and
the planner, and a change of first parent raises the PARENT notice. -/
def State.review (s : State) : State :=
  let old := s.work.oldParents.getD s.route.parents
  let new := chooseParents s.settings.hysteresis s.candidates (old.head?.map (·.address))
  let u := ownCost s.gateway new
  let s := { s with
    route := { s.route with parents := new, ownU := u }
    work := { s.work with review := false, oldParents := none } }
  let s := if new = old then s else s.reportTarget
  if firstParent new = firstParent old then s else s.notify (.parent (firstParent old) (firstParent new) u)

/-- Run the review that the event so far has called for. -/
def State.reviewIfDue (s : State) : State := if s.work.review then s.review else s

/-! ## Q updates (R74, R75) -/

/-- The outcome of a DATA is a Q sample (R74); route review is called for when the record is a candidate or a member
(R75). Whether it is a candidate is judged on the record as the update leaves it (assumption log entry 54). -/
def State.takeQ (s : State) (a : Addr) (acked : Bool) : State :=
  let s := s.updNbr a fun r =>
    { r with q := qStep r.q r.updates acked, updates := satInc 8 r.updates, untried := false }
  if s.route.parents.any (fun p => p.address = a) || (s.nbrOf a).any (isCandidate s.settings) then s.callReview
  else s

/-! ## Upward frames (R89) -/

/-- The first of some neighbors that is sendable for a class, each asked in turn. -/
def State.firstSendable (c : FrameClass) (aim : Option Aim) : List Addr → State → Option Addr × State
  | [], s => (none, s)
  | a :: as, s =>
    match s.ask a c aim with
    | (true, s) => (some a, s)
    | (false, s) => State.firstSendable c aim as s

/-- The uplink target of a frame (R89). -/
def State.uplinkTarget (s : State) (c : FrameClass) (lastFail : Option Addr) (aim : Option Aim := none) :
    Option Addr × State :=
  let members := s.route.parents.map (·.address)
  match State.firstSendable c aim (members.filter fun a => some a ≠ lastFail) s with
  | (some a, s) => (some a, s)
  | (none, s) => State.firstSendable c aim (members.filter fun a => some a = lastFail) s

/-! ## Loops and poison (R91, R92) -/

/-- The loop check (R91): an upward frame from the current first parent poisons it, and route review runs at once. -/
def State.loopCheck (s : State) (transmitter : Addr) : State :=
  if s.route.parents.head?.map (·.address) = some transmitter then
    (s.updNbr transmitter fun r => { r with poisoned := true }).review
  else s

/-! ## The trail table (R94 to R96) -/

/-- The trail of an origin. -/
def Route.trail (r : Route) (o : Addr) : Option Trail := r.trails.find? fun t => t.origin = o

/-- The order the table is held in: ascending origin. -/
def Trail.before (a b : Trail) : Bool := a.origin.toNat < b.origin.toNat

/-- The order of replacement in a full table: the earlier refresh, then the lower origin (R95). -/
def Trail.older (now : Tick) (a b : Trail) : Bool :=
  age now b.refreshed < age now a.refreshed || (a.refreshed == b.refreshed && a.origin.toNat < b.origin.toNat)

/-- A lesson applied to the table (R95). -/
def Route.learn (r : Route) (o n : Addr) (now : Tick) : Route :=
  let t : Trail := { origin := o, next := n, refreshed := now }
  let without (x : Addr) : List Trail := r.trails.filter fun e => e.origin ≠ x
  match r.trail o with
  | some _ => { r with trails := insertBy Trail.before t (without o) }
  | none =>
    if r.trails.length < 512 then { r with trails := insertBy Trail.before t r.trails }
    else
      match bestBy (Trail.older now) r.trails with
      | some v => { r with trails := insertBy Trail.before t (without v.origin) }
      | none => { r with trails := [t] }

/-- The trail lesson of an upward frame: origin and transmitter (R95). -/
def State.trailLesson (s : State) (origin transmitter : Addr) : State :=
  if (s.nbrOf transmitter).isSome && origin ≠ s.own then
    { s with route := s.route.learn origin transmitter s.now }
  else s

/-- The oldest instant an age is kept against: now minus 65,535 s (R68, R96). -/
def ageFloor (now : Tick) : Tick := now - ticks (seconds 65535)

/-- A time whose age is at or above 65,535 s is set to now minus 65,535 s (R68, R96). -/
def keepAge (now t : Tick) : Tick := if seconds 65535 ≤ age now t then ageFloor now else t

/-- The expiry of trails at the sweep (R96), after their times have been kept within their age. A lifetime of 0 turns
the removal off. -/
def State.expireTrails (s : State) : State :=
  let life := s.settings.trailLifetime
  let kept := s.route.trails.map fun t => { t with refreshed := keepAge s.now t.refreshed }
  { s with route := { s.route with
      trails := if life = 0 then kept else kept.filter fun t => age s.now t.refreshed ≤ seconds life } }

/-! ## Next-hop resolution (R97, R98, R142) -/

/-- Where a frame goes (R142); `invalid` is a destination that does not resolve (R98). -/
inductive Direction where
  | toHost
  | bound (a : Addr)
  | uplink
  | noRoute
  | invalid
deriving DecidableEq, Repr

/-- The next hop of a frame whose destination is a node address (R97). -/
def State.resolveNode (s : State) (d : Addr) (excluded : Option Addr) : Direction :=
  if (s.nbrOf d).isSome then .bound d
  else
    match (s.route.trail d).filter fun t => some t.next ≠ excluded with
    | some t => .bound t.next
    | none => if s.gateway then .noRoute else .uplink

/-- The direction of a destination (R98). -/
def State.resolve (s : State) (d : Addr) (excluded : Option Addr) : Direction :=
  if d = uplinkAddr then (if s.gateway then .toHost else .uplink)
  else if !nodeAddr d then .invalid
  else if d = s.own then .toHost
  else s.resolveNode d excluded

end Sys2Proof.Machine
end

