-- ==== Sys2Proof/Machine/FrameStore.lean ====
section
/-! DEFINITION. Cells and the places they are in, admission to the store, parking, re-evaluation, staging, the recent
list and the own flow state (chapter 6). Where a rule hands the change of the free count on "at once" (R103), the
backlog scan is the argument `scan`, so that a scan already running can take the change as one further scan (R179). -/

namespace Sys2Proof.Machine

/-- Rewrite the store. -/
def State.storeWith (s : State) (f : Store → Store) : State := { s with store := f s.store }

/-- The order of the transmit queue and the parked list (R105). -/
def FrameRec.before (a b : FrameRec) : Bool :=
  a.cls.code < b.cls.code || (a.cls.code == b.cls.code && a.serial < b.serial)

/-- The list without the frame of an admission serial. -/
def withoutSerial (n : Nat) (l : List FrameRec) : List FrameRec := l.filter fun f => f.serial ≠ n

/-- A cell leaves the four lists: it is in the free pool, or about to be placed. -/
def Store.remove (st : Store) (n : Nat) : Store :=
  { st with
    queue := withoutSerial n st.queue, parked := withoutSerial n st.parked
    staging := withoutSerial n st.staging, burst := withoutSerial n st.burst }

/-- Every frame of the queue, the parked list and the in-flight burst rewritten. -/
def Store.mapWaiting (st : Store) (f : FrameRec → FrameRec) : Store :=
  { st with queue := st.queue.map f, parked := st.parked.map f, burst := st.burst.map f }

/-- The frame of an admission serial in the queue, the parked list or the in-flight burst. -/
def Store.waiting (st : Store) (n : Nat) : Option FrameRec :=
  (st.queue ++ st.parked ++ st.burst).find? fun f => f.serial = n

/-- A frame is bound to `a` in the queue, the parked list or the in-flight burst (R65, R105). -/
def Store.hasBound (st : Store) (a : Addr) : Bool :=
  (st.queue ++ st.parked ++ st.burst).any fun f => f.binding = .bound a

/-! ## Own flow state (R117) -/

/-- The own flow state after an evaluation against the free count (R117). -/
def nextFlow (st : Settings) (free : Nat) : Flow → Flow
  | .go => if free ≤ st.holdMark then .hold else .go
  | .hold => if st.goMark ≤ free then .go else .hold

/-- Evaluate the own flow state (R117). -/
def State.evalFlow (s : State) : State :=
  s.storeWith fun st => { st with flow := nextFlow s.settings st.free st.flow }

/-- A change of the free count is handed on: the flow state is evaluated and a backlog scan called for (R103). -/
def State.freeChanged (s : State) : State := s.evalFlow.callScan

/-! ## Targets and places (R89, R104 to R107) -/

/-- The frame's target when it is sendable for the frame's class (R104): the bound neighbor, or the uplink target of
R89. -/
def State.target (s : State) (f : FrameRec) (aim : Option Aim := none) : Option Addr × State :=
  match f.binding with
  | .uplink => s.uplinkTarget f.cls f.lastFail aim
  | .bound a =>
    match s.ask a f.cls aim with
    | (true, s) => (some a, s)
    | (false, s) => (none, s)
  | .localDelivery => (none, s)

/-- The parking limit of a class in ticks, divided by 8 with quick discard on (R106). -/
def parkLimit (st : Settings) (c : FrameClass) : Nat :=
  let n := match c with
    | .alarm => st.parkAlarm
    | .control => st.parkControl
    | .bulk => st.parkBulk
  seconds n / (if st.quickDiscard then 8 else 1)

/-- The store with a frame at its ordered place in the transmit queue, without a deadline, and nowhere else (R104, R105). -/
def Store.toQueue (st : Store) (f : FrameRec) : Store :=
  { st.remove f.serial with
    queue := insertBy FrameRec.before { f with deadline := none } (withoutSerial f.serial st.queue) }

/-- The store with a frame at its ordered place in the parked list, and nowhere else (R105). -/
def Store.toParked (st : Store) (f : FrameRec) (deadline : Tick) : Store :=
  { st.remove f.serial with
    parked := insertBy FrameRec.before { f with deadline := some deadline } (withoutSerial f.serial st.parked) }

/-- A frame joins the transmit queue; the planner hears of it (R104). -/
def State.enqueue (s : State) (f : FrameRec) : State := (s.storeWith fun st => st.toQueue f).callRecompute

/-- A frame moves to the parked list (R105). -/
def State.parkUntil (s : State) (f : FrameRec) (deadline : Tick) : State := s.storeWith fun st => st.toParked f deadline

/-- A frame is parked with a fresh deadline (R106). -/
def State.park (s : State) (f : FrameRec) : State :=
  s.parkUntil f (s.now + ticks (parkLimit s.settings f.cls))

/-- A frame takes its place: in RUNNING by the question of R104, in other states in the transmit queue (R104, R109).
A frame that already has a deadline is parked already and keeps it (R107; assumption log entry 12). -/
def State.place (s : State) (f : FrameRec) : State :=
  if s.radio.engine = .running then
    match s.target f with
    | (some _, s) => s.enqueue f
    | (none, s) =>
      match f.deadline with
      | some d => s.parkUntil f d
      | none => s.park f
  else s.enqueue f

/-- One frame of a pass (R107): a queued frame whose target is not sendable parks, a parked one whose target is
sendable returns to the queue. -/
def State.passFrame (s : State) (f : FrameRec) : State :=
  match s.target f, f.deadline with
  | (some _, s), none => s
  | (some _, s), some _ => s.enqueue f
  | (none, s), none => s.park f
  | (none, s), some _ => s

/-- A re-evaluation pass over both lists in the order of R105, while the engine is RUNNING (R107). -/
def State.pass (s : State) : State :=
  let s := { s with work := { s.work with pass := false } }
  if s.radio.engine = .running then
    (sortBy FrameRec.before (s.store.queue ++ s.store.parked)).foldl State.passFrame s
  else s

/-- Every parked frame moves to the transmit queue without its deadline (R109). -/
def State.unpark (s : State) : State := s.store.parked.foldl State.enqueue s

/-! ## Cells (R101, R103) -/

/-- A frame of a class is granted a cell under the alarm reserve (R103). -/
def Store.grants (st : Store) (c : FrameClass) : Bool :=
  match c with
  | .alarm => 0 < st.free
  | _ => 4 < st.free

/-- The admission serial of the next cell taken (R105). -/
def State.takeSerial (s : State) : State := s.storeWith fun st => { st with nextSerial := st.nextSerial + 1 }

/-- A cell is taken for a frame to be sent, which takes its place; the free count has changed (R103, R104). -/
def State.storeFrame (s : State) (f : FrameRec) : State :=
  (s.takeSerial.place { f with serial := s.store.nextSerial }).freeChanged

/-- A cell is taken for a frame for local delivery, at the tail of the staging list (R112). -/
def State.stage (s : State) (f : FrameRec) : State :=
  (s.takeSerial.storeWith fun st =>
    { st with staging := st.staging ++ [{ f with serial := s.store.nextSerial }] }).freeChanged

/-- How a frame leaves the store (R111). -/
inductive Leave where
  | forwarded (neighbor : Addr)
  | exhausted
  | noroute (neighbor : Addr)
  | discarded
  | stopped
deriving DecidableEq, Repr

/-- The counter a leaving frame raises (R111). -/
def Leave.count (l : Leave) (originated : Bool) (c : Counters) : Counters :=
  match l with
  | .forwarded _ =>
    if originated then { c with originatedSent := bump c.originatedSent } else { c with relayed := bump c.relayed }
  | .exhausted => { c with exhausted := bump c.exhausted }
  | .noroute _ => { c with noroute := bump c.noroute }
  | .discarded => { c with discarded := bump c.discarded }
  | .stopped => { c with stopped := bump c.stopped }

/-- The outcome of an originated frame that leaves (R137, R182). -/
def Leave.code : Leave → OutcomeCode
  | .forwarded _ => .forwarded
  | .exhausted => .exhausted
  | .noroute _ => .noroute
  | .discarded => .discarded
  | .stopped => .stopped

/-- The neighbor an outcome carries, 0x0000 where it carries none (R182). -/
def Leave.neighbor : Leave → Addr
  | .forwarded a => a
  | .noroute a => a
  | _ => 0

/-- The details of the outcome of a taken SEND (12_formats.md, section 12.2). -/
def sendDetails (f : FrameRec) (l : Leave) : List Byte :=
  [f.sequence, BitVec.ofNat 8 f.hopLimit] ++ leBytes 2 l.neighbor.toNat ++ [BitVec.ofNat 8 f.total]

/-- A frame leaves the store (R111): its cell is freed and the free count handed on, the counter rises, the outcome
of an originated frame completes its box (R182), and the backlog scan follows. -/
def State.leave (s : State) (scan : State → State) (f : FrameRec) (l : Leave) : State :=
  let s := (s.storeWith fun st => st.remove f.serial).freeChanged
  match f.source with
  | .originated b => scan ((s.count (l.count true)).finishBox b l.code (sendDetails f l))
  | .relayed .. => scan (s.count (l.count false))

/-! ## Staging and local delivery (R112, R113) -/

/-- One round of the drain of staged frames: the oldest staged frame into the oldest lent box, then its cell is freed
(R113). -/
def State.drainOne (s : State) (scan : State → State) : State :=
  match s.store.staging, s.port.lent with
  | f :: _, b :: _ => scan ((s.deliver b f).storeWith fun st => st.remove f.serial).freeChanged
  | _, _ => s

/-- Staged frames are written into lent boxes while both remain (R113). The staging list holds at most 8. -/
def State.drain (scan : State → State) : Nat → State → State
  | 0, s => s
  | n + 1, s =>
    if s.store.staging.isEmpty || s.port.lent.isEmpty then s else State.drain scan n (s.drainOne scan)

/-! ## The recent list and the own sequence (R114 to R116) -/

/-- The recent list after a pair is recorded (R114). A pair already present only moves to the tail: no oldest pair is dropped
for it, also where the list holds 32 (assumption log entry 79). -/
def recordPair (l : List (Addr × Byte)) (p : Addr × Byte) : List (Addr × Byte) :=
  let l := l.filter (· ≠ p)
  (if l.length < 32 then l else l.drop 1) ++ [p]

/-- Record a pair in the recent list. -/
def State.record (s : State) (origin : Addr) (sequence : Byte) : State :=
  s.storeWith fun st => { st with recent := recordPair st.recent (origin, sequence) }

/-- The pair is in the recent list (R115). -/
def Store.knows (st : Store) (origin : Addr) (sequence : Byte) : Bool := st.recent.contains (origin, sequence)

end Sys2Proof.Machine
end

