-- ==== Sys2Proof/Machine/Planner.lean ====
section
/-! DEFINITION. The Transmit Planner: targets, candidates, the plan and its claim, and how a plan ends (R120 to R128,
R136). -/

namespace Sys2Proof.Machine

/-- Rewrite the planner. -/
def State.planWith (s : State) (f : Planner → Planner) : State := { s with planner := f s.planner }

/-! ## The end of a plan (R127, R128, R136) -/

/-- The frames of the in-flight burst return to the Frame Store in the burst's order (R110, R136). -/
def State.returnBurst (s : State) : State := s.store.burst.foldl State.place s

/-- The plan is gone: state NONE, sender IDLE, its claim off the timeline (R127, R136). -/
def State.clearPlan (s : State) : State :=
  (s.planWith fun p => { p with state := .none, plan := none, tx := .idle }).dropClaims fun c => c.kind.isTransmission

/-- An OPEN or FROZEN plan is dropped with its claim withdrawn; the frames of a frozen one return (R127). -/
def State.dropPlan (s : State) : State :=
  if s.planner.state = .open ∨ s.planner.state = .frozen then s.clearPlan.returnBurst.callRecompute else s

/-- The lost-beat marks with one for `a`, in place of any it had (R120). -/
def setMark (l : List (Addr × Tick)) (a : Addr) (b : Tick) : List (Addr × Tick) := (l.filter (·.1 ≠ a)) ++ [(a, b)]

/-- The claim of an OPEN or FROZEN plan was refused or taken away: the plan ends, its frames return unchanged, and the
beat is marked (R128). -/
def State.losePlan (s : State) : State :=
  let s := { s with work := { s.work with planLost := false } }
  match s.planner.plan with
  | some p =>
    if s.planner.state = .open ∨ s.planner.state = .frozen then
      ((s.clearPlan.returnBurst).planWith fun q => { q with marks := setMark q.marks p.target p.instant }).callRecompute
    else s
  | none => s

/-! ## Eligible frames and candidates (R121, R122) -/

/-- The backoff of a frame has passed or is absent (R121). -/
def FrameRec.backoffOver (f : FrameRec) (now : Tick) : Bool :=
  match f.backoff with
  | some b => reached now b
  | none => true

/-- The eligible frames of a list, each with its target, in order (R121); `aim` is the freezing plan's (R125, R126). For a
frame whose backoff has not passed the sendable question is not asked, so it lapses no tracker (assumption log entry 82). -/
def State.eligible (aim : Option Aim) : List FrameRec → State → List (FrameRec × Addr) × State
  | [], s => ([], s)
  | f :: fs, s =>
    if f.backoffOver s.now then
      match s.target f aim with
      | (some a, s) =>
        let (rest, s) := State.eligible aim fs s
        ((f, a) :: rest, s)
      | (none, s) => State.eligible aim fs s
    else State.eligible aim fs s

/-- The frames that form the burst toward `a`, bounded by the target's grant and the burst limit (R126). -/
def State.burstFor (s : State) (el : List (FrameRec × Addr)) (a : Addr) : List FrameRec :=
  let grant := ((s.nbrOf a).map (·.grant)).getD 1
  ((el.filter fun e => e.2 = a).map (·.1)).take (min grant s.settings.burstLimit)

/-- The claim span of a burst: a1 + … + ak + 41k + 6(k − 1) ticks (R123). -/
def burstSpan (fs : List FrameRec) : Nat :=
  (fs.map fun f => airtime (dataLength f.payload.length)).sum + 41 * fs.length + 6 * (fs.length - 1)

/-- A candidate rendezvous: the plan it would be and the best frame of its target (R122, R123). -/
structure Candidate where
  plan : Plan
  best : FrameRec
deriving DecidableEq, Repr

/-- The ranking of candidates (R123). -/
def Candidate.before (a b : Candidate) : Bool :=
  a.plan.cls.code < b.plan.cls.code
    || (a.plan.cls.code == b.plan.cls.code
      && (sdiff16 a.plan.start b.plan.start < 0
        || (a.plan.start == b.plan.start && a.best.serial < b.best.serial)))

/-- The lost-beat mark of a target (R120). -/
def Planner.markOf (p : Planner) (a : Addr) : Option Tick := (p.marks.find? fun m => m.1 = a).map (·.2)

/-- A mark whose instant the estimate R(now) has passed is removed when a candidate is computed for its neighbor
(R120). -/
def State.clearMark (s : State) (a : Addr) : State :=
  match s.planner.markOf a, (s.nbrOf a).bind fun r => r.tracker.remoteNow s.now16 with
  | some m, some here =>
    if reached here m then s.planWith fun p => { p with marks := p.marks.filter (·.1 ≠ a) } else s
  | _, _ => s

/-- The candidate toward `a`, whose best frame is `best` (R122). -/
def State.candidate (s : State) (el : List (FrameRec × Addr)) (a : Addr) (best : FrameRec) : Option Candidate := do
  let r ← s.nbrOf a
  let b ← r.nextRendezvous s.now16 (s.planner.markOf a)
  let p ← r.tracker.predict b
  let w := tickOf p
  some { plan :=
           { target := a, instant := b, start := p, channel := r.channelAt b, cls := best.cls, winStart := w
             winStop := w + ticks (burstSpan (s.burstFor el a)), evicted := false }
         best := best }

/-- The candidates of the distinct targets, each judged by its first eligible frame, in order (R121, R122). -/
def State.candidateList (el : List (FrameRec × Addr)) : List (FrameRec × Addr) → List Addr → State → List Candidate × State
  | [], _, s => ([], s)
  | (f, a) :: rest, seen, s =>
    if seen.contains a then State.candidateList el rest seen s
    else
      let s := s.clearMark a
      let c := s.candidate el a f
      let (cs, s) := State.candidateList el rest (a :: seen) s
      (c.toList ++ cs, s)

/-! ## The plan and its claim (R123, R124) -/

/-- The kind of the plan's claim (R123). -/
def Plan.claimKind (p : Plan) : ClaimKind := if p.cls = .alarm then .alarmTransmission else .otherTransmission

/-- The plan's claim. -/
def Plan.claim (p : Plan) : Claim :=
  { kind := p.claimKind, start := p.winStart, stop := some p.winStop, channel := p.channel, owner := p.target
    instant := p.instant }

/-- Request the claim of a plan in place of the claim held; a refusal ends the plan (R123, R128). -/
def State.claimPlan (s : State) (p : Plan) : State :=
  let s := s.dropClaims fun c => c.kind.isTransmission
  match s.request p.claim with
  | (true, s) => s
  | (false, s) => s.losePlan

/-- The plan becomes OPEN and its claim is requested (R123). -/
def State.openPlan (s : State) (p : Plan) : State :=
  State.claimPlan (s.planWith fun q => { q with state := .open, plan := some p }) p

/-- The plan's window on the radio timeline is that of another plan. -/
def Plan.sameWindow (p q : Plan) : Bool := p.winStart = q.winStart && p.winStop = q.winStop

/-- The top candidate becomes or keeps the plan (R124). The same target and instant keep the open plan with the newly
computed values; the claim is requested again only if its window changed (assumption log entry 27). -/
def State.adopt (s : State) (c : Candidate) : State :=
  match s.planner.plan with
  | some old =>
    if old.target = c.plan.target ∧ old.instant = c.plan.instant then
      if old.sameWindow c.plan then s.planWith fun q => { q with plan := some c.plan } else s.openPlan c.plan
    else s.openPlan c.plan
  | none => s.openPlan c.plan

/-- A recomputation (R121 to R124): while RUNNING with no stop pending and the plan state NONE or OPEN. -/
def State.recompute (s : State) : State :=
  let s := { s with work := { s.work with recompute := false } }
  if s.radio.engine = .running && !s.radio.stopPending && (s.planner.state = .none || s.planner.state = .open) then
    let (el, s) := State.eligible none s.store.queue s
    let (cs, s) := State.candidateList el el [] s
    match bestBy Candidate.before cs with
    | some c => s.adopt c
    | none => if s.planner.state = .open then s.clearPlan else s
  else s

end Sys2Proof.Machine
end

