-- ==== Sys2Proof/Machine/Evict.lean ====
section
/-! DEFINITION. Eviction of a neighbor record with its effects on every block (R68 to R70), admission of a new one
(R64 to R66) and beacon intake (R148, R149). -/

namespace Sys2Proof.Machine

/-! ## Eviction (R70) -/

/-- The neighbor excluded when a frame in the store is resolved again: the last hop of a relayed frame (R70). -/
def Source.excluded : Source → Option Addr
  | .relayed h _ _ => some h
  | .originated _ => none

/-- A frame bound to an evicted neighbor is resolved again and takes its place, or is dropped NOROUTE (R70). -/
def State.reresolve (s : State) (scan : State → State) (f : FrameRec) : State :=
  match s.resolve f.destination f.source.excluded with
  | .bound a => s.place { f with binding := .bound a }
  | .uplink => s.place { f with binding := .uplink }
  | .toHost => s.place { f with binding := .uplink }
  | .noRoute => s.leave scan f (.noroute 0)
  | .invalid => s.leave scan f (.noroute 0)

/-- A frame that an eviction touches: one bound to the evicted address is re-resolved, any other (an uplink frame of a
dropped frozen plan) takes its place afresh (R70, R127). An uplink frame with a node destination stays uplink, also where a
trail or a record for that destination has come since (assumption log entry 77). -/
def State.resettle (s : State) (scan : State → State) (a : Addr) (f : FrameRec) : State :=
  if f.binding = .bound a then s.reresolve scan f else s.place f

/-- The frames of some admission serials are settled one after another, each as it then stands: one that a scan on the way
has ended is passed over, and what that scan has changed in another stays (R70, R103). -/
def State.resettleAll (s : State) (scan : State → State) (a : Addr) (serials : List Nat) : State :=
  serials.foldl (fun s n => (s.store.waiting n).elim s (s.resettle scan a)) s

/-- The Route Unit's part of an eviction (R70, R96): the trails through the address go, the address leaves the parent
set, and route review is called for. -/
def State.forgetRoutes (s : State) (a : Addr) : State :=
  { s with
    route := { s.route with
      trails := s.route.trails.filter fun t => t.next ≠ a
      parents := s.route.parents.filter fun p => p.address ≠ a }
    work := { s.work with
      review := true
      oldParents := some (s.work.oldParents.getD s.route.parents) } }

/-- The planner's part of an eviction (R70, R120, R127): an OPEN or FROZEN plan toward the address is dropped, a burst
under way is marked, the address's lost-beat mark goes. -/
def State.forgetPlan (s : State) (a : Addr) : State :=
  let s := s.planWith fun p => { p with marks := p.marks.filter (·.1 ≠ a) }
  match s.planner.plan with
  | some p =>
    if p.target = a then
      if s.planner.state = .burst then s.planWith fun q => { q with plan := some { p with evicted := true } }
      else s.clearPlan.callRecompute
    else s
  | none => s

/-- A record leaves the table (R70). The frames bound to it, queued and parked together, are resolved again in the order of
R105 (assumption log entry 61). Its NEIGHBOR_OUT comes after the outcomes of the frames it drops and the scans they call
for (entry 65), and before the PARENT notice of the review it calls for (entry 56). -/
def State.evict (s : State) (scan : State → State) (a : Addr) (why : EvictReason) : State :=
  let s := { s with nbr := { s.nbr with
    places := s.nbr.places.map fun (p : Option Neighbor) => p.filter fun r => r.address ≠ a } }
  let s := (s.forgetRoutes a).forgetPlan a
  let s := s.storeWith fun st => st.mapWaiting fun f =>
    if f.lastFail = some a then { f with lastFail := none } else f
  let frozen := if s.planner.state = .none then s.store.burst else []
  let frames := sortBy FrameRec.before
    ((s.store.queue ++ s.store.parked).filter (fun (f : FrameRec) => f.binding = Binding.bound a) ++ frozen)
  let s := s.resettleAll scan a (frames.map (·.serial))
  (s.reportTarget).notify (.neighborOut a why)

/-! ## Admission (R64 to R66) -/

/-- The order of PROBATION victims: the earlier admission time, then the lower address (R65). -/
def Neighbor.admittedBefore (now : Tick) (a b : Neighbor) : Bool :=
  age now b.admission < age now a.admission || (a.admission == b.admission && a.address.toNat < b.address.toNat)

/-- The order of ACTIVE victims: the lower signal average, then the higher address (R65). -/
def Neighbor.weaker (a b : Neighbor) : Bool :=
  a.signal < b.signal || (a.signal == b.signal && b.address.toNat < a.address.toNat)

/-- The victim sought when no place is free (R65). -/
def State.victim (s : State) (level : Int) : Option Neighbor :=
  match bestBy (Neighbor.admittedBefore s.now) (s.nbr.records.filter fun r => !r.pinned && !r.active) with
  | some v => some v
  | none =>
    let ok := s.nbr.records.filter fun r =>
      !r.pinned && r.active && !(s.route.parents.any fun p => p.address = r.address) && !s.store.hasBound r.address
    (bestBy Neighbor.weaker ok).filter fun v => v.signal + 6 ≤ level

/-- The record set up from an admitting beacon (R66), before its first sample. -/
def State.newRecord (s : State) (b : BeaconFrame) (level : Int) : Neighbor :=
  ({ address := b.transmitter, active := false, tracker := .new, schedule := none, stale := false, cost := b.cost
     parent := b.parent, poisoned := false
     hold := match b.flow with
       | .hold => some (s.now + ticks (seconds s.settings.holdLifetime))
       | .go => none
     grant := b.grant, q := 2048, updates := 0, untried := true, signal := level, lastTried := none
     admission := s.now, pinned := s.nbr.pins.contains b.transmitter } : Neighbor).refreshSchedule b

/-- The first free place of a table takes a record (R64). -/
def putFirstFree (r : Neighbor) : List (Option Neighbor) → List (Option Neighbor)
  | [] => []
  | none :: ps => some r :: ps
  | some x :: ps => some x :: putFirstFree r ps

/-- A beacon is admitted: the record is set up, the tracker takes its first sample, route review is called for and the
NEIGHBOR_IN notice raised (R66). A flow of HOLD is no change of a held flag that is reported (R76; assumption log entry
71). -/
def State.enrol (s : State) (b : BeaconFrame) (capture : Sixteenth) (level : BitVec 8) : State :=
  let s := { s with nbr := { s.nbr with
    places := putFirstFree (s.newRecord b level.toInt) s.nbr.places } }
  ((s.takeSample b.transmitter .beacon b.timestamp capture).callReview).notify (.neighborIn b.transmitter level)

/-- A place of the table is free. -/
def NbrUnit.hasFree (u : NbrUnit) : Bool := u.places.any Option.isNone

/-- The admission test of a beacon from an unknown transmitter (R64, R65). -/
def State.admission (s : State) (scan : State → State) (b : BeaconFrame) (capture : Sixteenth) (level : BitVec 8) :
    State :=
  if s.nbr.bars.contains b.transmitter then s
  else if level.toInt < s.settings.admissionFloor then s
  else if s.nbr.hasFree then s.enrol b capture level
  else
    match s.victim level.toInt with
    | some v => (s.evict scan v.address .replaced).enrol b capture level
    | none => s.count fun c => { c with admissionRefusals := bump c.admissionRefusals }

/-! ## Beacon intake (R148, R149) -/

/-- A beacon from a known neighbor refreshes its record, step by step (R149). The planner hears of every refresh
(R124). -/
def State.refreshNbr (s : State) (b : BeaconFrame) (capture : Sixteenth) (level : BitVec 8) : State :=
  let a := b.transmitter
  let was := ((s.nbrOf a).map (·.stale)).getD false
  let s := s.takeSignal a level
  let s := (s.updNbr a fun r => r.refreshSchedule b).reportStale a was
  let s := s.updNbr a fun r => { r with cost := b.cost, parent := b.parent, poisoned := false }
  let s := s.setHeld a (b.flow = .hold)
  let s := s.takeGrant a b.grant
  (s.takeSample a .beacon b.timestamp capture).callReview.callRecompute

/-- Beacon intake (R148): a beacon from the own address is passed over, one from a known neighbor refreshes its record,
any other is tested for admission. -/
def State.intake (s : State) (scan : State → State) (b : BeaconFrame) (capture : Sixteenth) (level : BitVec 8) :
    State :=
  if b.transmitter = s.own then s
  else if (s.nbrOf b.transmitter).isSome then s.refreshNbr b capture level
  else s.admission scan b capture level

end Sys2Proof.Machine
end

