-- ==== Sys2Proof/Machine/Settle.lean ====
section
/-! DEFINITION. Carrying out, within one event, what its reports have called for: lost plans, route review, passes, the
next own listen and recomputation (R87, R88, R107, R124, R128, R158; assumption log entry 10). -/

namespace Sys2Proof.Machine

/-- Nothing but a backlog scan is outstanding. -/
def Work.quiet (w : Work) : Bool :=
  !w.planLost && !w.review && !w.pass && w.placeListen.isNone && !w.recompute

/-- The next outstanding piece of work other than a scan: a plan lost (R128), a route review (R88), a pass (R107), the
next own listen (R25, R158), a recomputation (R124). -/
def State.quietRound (s : State) : State :=
  if s.work.planLost then s.losePlan
  else if s.work.review then s.review
  else if s.work.pass then s.pass
  else if s.work.placeListen.isSome then s.placeListen s.work.placeListen
  else if s.work.recompute then s.recompute
  else s

/-- Round after round of outstanding work, scans apart, until none is left. -/
def State.settleQuiet : Nat → State → State
  | 0, s => s
  | n + 1, s => if s.work.quiet then s else State.settleQuiet n s.quietRound

/-- More rounds than one event can call for: each further round needs a tracker that lapses, a hold that is cleared, a
beat that is marked or a claim that is taken away, none of which can come back within the event. -/
def settleRounds : Nat := 1024

end Sys2Proof.Machine
end

