-- ==== Sys2Proof/Machine/Requests.lean ====
section
/-! DEFINITION. The seven requests: reading the record, SEND, SET, QUERY and the list requests (chapter 11;
12_formats.md, section 12.2). The backlog scan stands in Scan.lean. -/

namespace Sys2Proof.Machine

/-! ## The request record (R180, R192) -/

/-- The request kinds. -/
inductive ReqKind where
  | send | set | query | pin | unpin | bar | unbar
deriving DecidableEq, Repr

/-- The request kind of a code. -/
def ReqKind.ofCode : Nat → Option ReqKind
  | 1 => some .send
  | 2 => some .set
  | 3 => some .query
  | 4 => some .pin
  | 5 => some .unpin
  | 6 => some .bar
  | 7 => some .unbar
  | _ => none

/-- The body length that a request's own length fields declare (12_formats.md, section 12.2). -/
def ReqKind.declared (k : ReqKind) (r : List Byte) : Nat :=
  match k with
  | .send => 5 + (byteAt r 10).toNat
  | .set => 1 + 3 * (byteAt r 6).toNat
  | .query => 3
  | _ => 2

/-- The kind of a request record that is sound as a whole; none where R180 answers BADREQ: a kind that is none of the
seven, flags that are not 0, a body length that its fields do not declare or that is above 250 (R180, R192). -/
def requestKind (r : List Byte) : Option ReqKind :=
  (ReqKind.ofCode (byteAt r 0).toNat).filter fun k =>
    byteAt r 1 = 0 && leAt r 4 2 ≤ 250 && leAt r 4 2 == k.declared r

/-! ## SEND (R181, R182) -/

/-- A SEND's fields as read. -/
structure SendBody where
  destination : Addr
  classByte : Byte
  hopLimit : Nat
  payload : List Byte
deriving DecidableEq, Repr

/-- Read a SEND body. -/
def sendBody (r : List Byte) : SendBody :=
  { destination := word16 r 6, classByte := byteAt r 8, hopLimit := (byteAt r 9).toNat
    payload := (r.drop 11).take (byteAt r 10).toNat }

/-- What the tests of R181 make of a SEND. -/
inductive SendFate where
  | completed (c : OutcomeCode)
  | leave
  | take (cls : FrameClass) (binding : Binding)
deriving DecidableEq, Repr

/-- The destination can be named by a SEND (R181): not 0x0000, ALL, unassigned or the own address, and not UPLINK at a
gateway. -/
def State.sendable (s : State) (d : Addr) : Bool :=
  (nodeAddr d && d != s.own) || (d == uplinkAddr && !s.gateway)

/-- The binding of a direction (R142, R182). -/
def Direction.binding : Direction → Option Binding
  | .bound a => some (.bound a)
  | .uplink => some .uplink
  | _ => none

/-- The tests of R181, in order. -/
def State.judgeSend (s : State) (q : SendBody) : SendFate :=
  if q.payload.length < 1 || 96 < q.payload.length then .completed .badreq
  else
    match FrameClass.ofCode q.classByte.toNat with
    | none => .completed .badreq
    | some cls =>
      if !s.sendable q.destination then .completed .badreq
      else if s.radio.engine = .halted then .completed .notRunning
      else if s.radio.engine = .faulted then .completed .radioFault
      else if s.radio.stopPending then .leave
      else
        match (s.resolve q.destination none).binding with
        | none => .completed .noroute
        | some b => if s.store.grants cls then .take cls b else .leave

/-- The hop limit sent: 0 or above 15 gives the default hop limit (R181). -/
def State.sendHopLimit (s : State) (h : Nat) : Nat :=
  if h = 0 || 15 < h then s.settings.defaultHopLimit else h

/-- A box moves from the backlog to the TAKEN set, its map byte to TAKEN (R173, R182). -/
def State.takeBox (s : State) (b : Box) : State :=
  let p := s.port.writeMap b .taken
  { s with port := { p with backlog := p.backlog.filter (· ≠ b), taken := p.taken ++ [b] } }

/-- The own sequence counter rises by 1, wrapping (R116). -/
def State.nextSequence (s : State) : State := s.storeWith fun st => { st with sequence := st.sequence + 1 }

/-- A SEND is taken (R182). -/
def State.takeSend (s : State) (b : Box) (q : SendBody) (cls : FrameClass) (binding : Binding) : State :=
  let n := s.store.sequence
  let f : FrameRec :=
    { origin := s.own, destination := q.destination, sequence := n, cls, hopLimit := s.sendHopLimit q.hopLimit
      payload := q.payload, binding, total := 0, hops := 0, lastFail := none, backoff := none, deadline := none
      source := .originated b, serial := 0 }
  (((s.takeBox b).nextSequence).record s.own n).storeFrame f

/-- A SEND is visited (R181). A NOROUTE completion raises the NOROUTE counter, before the box is written DONE (assumption
log entry 69). -/
def State.visitSend (s : State) (b : Box) (r : List Byte) : State :=
  let q := sendBody r
  match s.judgeSend q with
  | .completed .noroute => (s.countNoroute).finishBox b .noroute []
  | .completed c => s.finishBox b c []
  | .leave => s
  | .take cls binding => s.takeSend b q cls binding

/-! ## SET (R183, R184) -/

/-- One pair of a SET: parameter id and 16-bit value. -/
structure Pair where
  id : Nat
  value : BitVec 16
deriving DecidableEq, Repr

/-- The pairs of a SET body. -/
def setPairs (r : List Byte) : List Pair :=
  (List.range (byteAt r 6).toNat).map fun i => { id := (byteAt r (7 + 3 * i)).toNat, value := word16 r (8 + 3 * i) }

/-- How a setting's 16-bit value is read and brought into its range (R183, R184, R192). -/
inductive ParamForm where
  | address
  | flag
  | phase
  | mask
  | level
  | notices
  | unsigned (lo hi : Nat)
  | signed (lo hi : Int)
deriving DecidableEq, Repr

/-- The settings table of R184 by identifier; none for an id it does not list. -/
def paramForm (id : Nat) : Option ParamForm :=
  if id = 0x01 then some .address
  else if id = 0x02 then some .flag
  else if id = 0x03 then some .phase
  else if id = 0x10 then some (.unsigned 9 16)
  else if id = 0x11 then some (.unsigned 8 64)
  else if id = 0x12 then some (.unsigned 16 20)
  else if id = 0x13 then some (.unsigned 0 15)
  else if id = 0x14 then some .mask
  else if id = 0x15 then some .flag
  else if id = 0x16 then some (.signed (-110) (-60))
  else if id = 0x17 then some (.unsigned 60 3600)
  else if id = 0x18 then some (.unsigned 60 3600)
  else if id = 0x19 then some (.unsigned 2 32)
  else if id = 0x1A then some (.unsigned 4 600)
  else if id = 0x1B then some (.unsigned 1 60)
  else if id = 0x20 then some (.unsigned 0 65535)
  else if id = 0x21 then some (.unsigned 0 7)
  else if id = 0x22 then some (.unsigned 0 7)
  else if id = 0x23 then some (.unsigned 0 7)
  else if id = 0x24 then some (.unsigned 0 7)
  else if id = 0x25 then some (.unsigned 1 255)
  else if id = 0x26 then some (.unsigned 2 15)
  else if id = 0x27 then some (.unsigned 1 120)
  else if id = 0x28 then some (.unsigned 10 3600)
  else if id = 0x30 then some (.signed (-120) (-40))
  else if id = 0x31 then some (.unsigned 10 3600)
  else if id = 0x32 then some (.unsigned 60 43200)
  else if id = 0x33 then some (.unsigned 1 60)
  else if id = 0x40 then some (.unsigned 0 64)
  else if id = 0x41 then some (.unsigned 0 255)
  else if id = 0x42 then some (.unsigned 1 15)
  else if id = 0x43 then some (.unsigned 0 43200)
  else if id = 0x50 then some (.unsigned 1 60)
  else if id = 0x51 then some (.unsigned 1 600)
  else if id = 0x52 then some (.unsigned 1 3600)
  else if id = 0x53 then some .flag
  else if id = 0x54 then some (.unsigned 1 62)
  else if id = 0x55 then some (.unsigned 2 63)
  else if id = 0x60 then some (.unsigned 1 4)
  else if id = 0x61 then some (.unsigned 1 8)
  else if id = 0x62 then some (.unsigned 1 16)
  else if id = 0x68 then some (.unsigned 2 60)
  else if id = 0x70 then some .level
  else if id = 0x71 then some (.unsigned 1 1000)
  else if id = 0x78 then some .notices
  else if id = 0x79 then some (.unsigned 1 15)
  else none

/-- The trigger level a value stands for (R177): the lower of the two levels it lies between, 1 below 1, 16 above. -/
def triggerLevelOf (v : Nat) : Nat :=
  if 16 ≤ v then 16 else if 8 ≤ v then 8 else if 4 ≤ v then 4 else if 2 ≤ v then 2 else 1

/-- A value brought into its form's range, as a number. -/
def ParamForm.clamp (f : ParamForm) (v : BitVec 16) : Int :=
  match f with
  | .address => v.toNat
  | .flag => if v = 0 then 0 else 1
  | .phase => if v = 255 then 255 else min v.toNat 127
  | .mask => v.toNat
  | .level => triggerLevelOf v.toNat
  | .notices => v.toNat % 64
  | .unsigned lo hi => clampNat lo hi v.toNat
  | .signed lo hi => clampInt lo hi v.toInt

/-- The value had to be clamped (R183). A flag never is. -/
def ParamForm.clamped (f : ParamForm) (v : BitVec 16) : Bool :=
  match f with
  | .flag => false
  | .signed .. => f.clamp v ≠ v.toInt
  | _ => f.clamp v ≠ v.toNat

/-- The setting that an id names takes a value already brought into its range. -/
def Settings.put (st : Settings) (id : Nat) (v : Int) : Settings :=
  let n := v.toNat
  let on := decide (v ≠ 0)
  if id = 0x01 then { st with ownAddress := BitVec.ofNat 16 n }
  else if id = 0x02 then { st with gateway := on }
  else if id = 0x03 then { st with phase := if n = 255 then .auto else .units n }
  else if id = 0x10 then { st with beatExponent := n }
  else if id = 0x11 then { st with halfWindow := n }
  else if id = 0x12 then { st with beaconExponent := n }
  else if id = 0x13 then { st with beaconChannel := n }
  else if id = 0x14 then { st with channelMask := BitVec.ofNat 16 n }
  else if id = 0x15 then { st with survey := on }
  else if id = 0x16 then { st with busyThreshold := v }
  else if id = 0x17 then { st with exclusionHold := n }
  else if id = 0x18 then { st with censusInterval := n }
  else if id = 0x19 then { st with censusSpan := n }
  else if id = 0x1A then { st with discoverySpan := n }
  else if id = 0x1B then { st with supplyDebounce := n }
  else if id = 0x20 then { st with slopeLimit := n }
  else if id = 0x21 then { st with fastAnchorShift := n }
  else if id = 0x22 then { st with fastDriftShift := n }
  else if id = 0x23 then { st with slowAnchorShift := n }
  else if id = 0x24 then { st with slowDriftShift := n }
  else if id = 0x25 then { st with lockThreshold := n }
  else if id = 0x26 then { st with lockCount := n }
  else if id = 0x27 then { st with holdoverEntry := n }
  else if id = 0x28 then { st with holdoverLimit := n }
  else if id = 0x30 then { st with admissionFloor := v }
  else if id = 0x31 then { st with probationTime := n }
  else if id = 0x32 then { st with evictionAge := n }
  else if id = 0x33 then { st with holdLifetime := n }
  else if id = 0x40 then { st with hopPenalty := n }
  else if id = 0x41 then { st with hysteresis := n }
  else if id = 0x42 then { st with unsteady := n }
  else if id = 0x43 then { st with trailLifetime := n }
  else if id = 0x50 then { st with parkAlarm := n }
  else if id = 0x51 then { st with parkControl := n }
  else if id = 0x52 then { st with parkBulk := n }
  else if id = 0x53 then { st with quickDiscard := on }
  else if id = 0x54 then { st with holdMark := n }
  else if id = 0x55 then { st with goMark := n }
  else if id = 0x60 then { st with burstLimit := n }
  else if id = 0x61 then { st with perHopLimit := n }
  else if id = 0x62 then { st with totalLimit := n }
  else if id = 0x68 then { st with refreshAge := n }
  else if id = 0x70 then { st with triggerLevel := n }
  else if id = 0x71 then { st with reportTimeout := n }
  else if id = 0x78 then { st with noticeMask := BitVec.ofNat 6 n }
  else if id = 0x79 then { st with defaultHopLimit := n }
  else st

/-- A pair applied to the settings, clamped. -/
def Settings.putPair (st : Settings) (p : Pair) : Settings :=
  match paramForm p.id with
  | some f => st.put p.id (f.clamp p.value)
  | none => st

/-- The settings as the pairs would leave them; of two pairs of one parameter the later stands (R183). -/
def Settings.withPairs (st : Settings) (ps : List Pair) : Settings := ps.foldl Settings.putPair st

/-- The index of the first pair that a test names. -/
def firstIndex (p : Pair → Bool) (ps : List Pair) : Option Nat := (List.range ps.length).find? fun i => (ps[i]?).any p

/-- The index of the last pair that a test names, 0 for none. -/
def lastIndex (p : Pair → Bool) (ps : List Pair) : Nat :=
  ((List.range ps.length).reverse.find? fun i => (ps[i]?).any p).getD 0

/-- The identity settings (R183). -/
def Pair.identity (p : Pair) : Bool := p.id = 0x01 || p.id = 0x02 || p.id = 0x03

/-- A mask keeps 4 data channels against a beacon channel (R33). -/
def fourData (m : Mask) (beaconChannel : Nat) : Bool := 4 ≤ (dataChannels m beaconChannel).length

/-- 2^n of the configured exponent is above 512 × the configured phase (R22). AUTO passes. -/
def Settings.phaseFits (st : Settings) : Bool :=
  match st.phase with
  | .auto => true
  | .units u => 512 * u < 2 ^ st.beatExponent

/-- The first test of R183 that a SET fails: its outcome and the failing pair's index, none for BADREQ's. -/
def State.setFailure (s : State) (ps : List Pair) : Option (OutcomeCode × List Byte) :=
  let st := s.settings.withPairs ps
  let index (n : Nat) : List Byte := [BitVec.ofNat 8 n]
  let running := s.radio.engine ≠ .halted
  if ps.length < 1 || 32 < ps.length then some (.badreq, [])
  else
    match firstIndex (fun p => (paramForm p.id).isNone) ps with
    | some i => some (.badvalue, index i)
    | none =>
      match firstIndex (fun p => running && p.identity) ps with
      | some i => some (.wrongState, index i)
      | none =>
        if ps.any (fun p => p.id = 0x01) && !nodeAddr st.ownAddress then
          some (.badvalue, index (lastIndex (fun p => p.id = 0x01) ps))
        else if !(fourData st.channelMask st.beaconChannel && fourData st.channelMask s.sched.beaconChannel) then
          let id := if ps.any (fun p => p.id = 0x14) then 0x14 else 0x13
          some (.badvalue, index (lastIndex (fun p => p.id = id) ps))
        else if st.goMark ≤ st.holdMark then
          some (.badvalue, index (lastIndex (fun p => p.id = 0x54 || p.id = 0x55) ps))
        else if !st.phaseFits then
          some (.wrongState, index (lastIndex (fun p => p.id = 0x10 || p.id = 0x03) ps))
        else if running && 2 ^ st.beatExponent ≤ s.phaseTicks then
          some (.wrongState, index (lastIndex (fun p => p.id = 0x10) ps))
        else none

/-- A SET changes the configured mask, so that a survey pair asking for on is taken as off (R183). -/
def State.maskChanges (s : State) (ps : List Pair) : Bool := (s.settings.withPairs ps).channelMask ≠ s.settings.channelMask

/-- The settings a SET leaves: a changed configured mask turns the survey off (R33, R183). -/
def State.setResult (s : State) (ps : List Pair) : Settings :=
  let st := s.settings.withPairs ps
  if s.maskChanges ps then { st with survey := false } else st

/-- The pair counts as clamped (R183). -/
def State.pairClamped (s : State) (ps : List Pair) (p : Pair) : Bool :=
  (match paramForm p.id with
    | some f => f.clamped p.value
    | none => false)
    || (s.maskChanges ps && p.id = 0x15 && p.value ≠ 0)

/-- The indices of the clamped pairs, in list order; a pair that a later one of its parameter supersedes counts by its
own value (assumption log entry 42). -/
def State.clampedIndices (s : State) (ps : List Pair) : List Byte :=
  ((List.range ps.length).filter fun i => (ps[i]?).any (s.pairClamped ps)).map fun i => BitVec.ofNat 8 i

/-- The survey and mask effect of an accepted SET (R33, R184). -/
def State.setSurvey (s : State) (old : Settings) : State :=
  if s.settings.channelMask ≠ old.channelMask || (old.survey && !s.settings.survey) then s.surveyOff
  else if !old.survey && s.settings.survey then s.surveyOn
  else s

/-- A changed own address evicts the record of the new own address and removes the trails of that origin (R69, R184). No
review is called for where there is no such record, so a member that names the new own address as its parent stays until the
next one (R85, R88; assumption log entry 81). -/
def State.setAddress (s : State) (old : Settings) : State :=
  if s.own = old.ownAddress then s
  else
    let s := if (s.nbrOf s.own).isSome then s.evict id s.own .ownAddress else s
    { s with route := { s.route with trails := s.route.trails.filter fun t => t.origin ≠ s.own } }

/-- A setting that calls for a route review has changed (R100). -/
def reviewSettingsDiffer (a b : Settings) : Bool :=
  a.hopPenalty ≠ b.hopPenalty || a.hysteresis ≠ b.hysteresis || a.unsteady ≠ b.unsteady || a.gateway ≠ b.gateway

/-- The route review that a SET calls for runs, with the one its eviction has called for (R69, R100, R184). -/
def State.setReview (s : State) (old : Settings) : State :=
  (if reviewSettingsDiffer old s.settings then s.callReview else s).reviewIfDue

/-- A changed hold or go mark evaluates the own flow state (R117, R184). -/
def State.setMarks (s : State) (old : Settings) : State :=
  if old.holdMark ≠ s.settings.holdMark || old.goMark ≠ s.settings.goMark then s.evalFlow else s

/-- A changed trigger level is tested (R177, R184). -/
def State.setLevel (s : State) (old : Settings) : State :=
  if old.triggerLevel ≠ s.settings.triggerLevel then s.attentionLevel else s

/-- A changed exponent in use or half-window places the own-listen claim afresh (R25). -/
def State.setListen (s : State) (old : Settings) (exponent : Nat) : State :=
  if exponent ≠ s.exponentInUse || old.halfWindow ≠ s.settings.halfWindow then s.replaceListen else s

/-- An accepted SET is applied as one unit (R184): every value stored, then each called-for effect once, in the order of
that rule; then the own-listen claim is placed afresh for a changed exponent or half-window (R25). The notices of those
effects are judged by the notice mask that the SET leaves (assumption log entry 66), and they are raised before the SET's own
outcome is written (entry 78). -/
def State.applySet (s : State) (ps : List Pair) : State :=
  let old := s.settings
  let stored := { s with req := { s.req with settings := s.setResult ps } }
  ((((((stored.setAddress old).setSurvey old).setReview old).setMarks old).setLevel old).setListen old s.exponentInUse)

/-- A SET is visited (R183, R184): the first failing test completes it, otherwise it is applied and completes OK or
CLAMPED. The notices its effects raise, PARENT among them, come before its outcome in the order of completion serials, an
order that R186 gives for BAR alone (assumption log entry 78). -/
def State.visitSet (s : State) (b : Box) (r : List Byte) : State :=
  let ps := setPairs r
  match s.setFailure ps with
  | some (c, details) => s.finishBox b c details
  | none =>
    match s.clampedIndices ps with
    | [] => (s.applySet ps).finishBox b .ok []
    | is => (s.applySet ps).finishBox b .clamped (BitVec.ofNat 8 is.length :: is)

/-! ## QUERY (R185) -/

/-- The code of a tracker state in a NEIGHBORS entry. -/
def TrackerState.code : TrackerState → Nat
  | .acquire => 0 | .locked => 1 | .holdover => 2 | .lapsed => 3

/-- Whole seconds since a tick, from 0 to 65,535. -/
def wholeSeconds (now t : Tick) : Nat := min 65535 (age now t / 32768)

/-- The last two bytes of a NEIGHBORS entry: seconds since the last sample, or the lapse age (R185). -/
def Neighbor.sampleSeconds (r : Neighbor) (now : Tick) : Nat :=
  if r.tracker.state = .lapsed then r.tracker.lapseAge
  else
    match r.tracker.lastSample with
    | some t => wholeSeconds now t
    | none => 0

/-- A NEIGHBORS entry. Without a stored schedule the exponent reads 0 (assumption log entry 40). -/
def Neighbor.entry (r : Neighbor) (now : Tick) : List Byte :=
  leBytes 2 r.address.toNat ++ leBytes 1 (r.active.toNat + 2 * r.tracker.state.code)
    ++ leBytes 1 (bitsNat [r.untried, r.poisoned, r.hold.isSome, r.stale, r.pinned])
    ++ leBytes 1 r.tracker.lockLoss ++ leBytes 2 r.q ++ leBytes 2 (linkCost r.q) ++ [BitVec.ofInt 8 r.signal]
    ++ leBytes 2 r.cost ++ leBytes 2 r.parent.toNat ++ leBytes 1 r.grant
    ++ leBytes 1 ((r.schedule.map (·.exponent)).getD 0) ++ leBytes 2 (r.sampleSeconds now) ++ [0, 0, 0, 0, 0, 0]

/-- A TRAILS entry. -/
def Trail.entry (t : Trail) (now : Tick) : List Byte :=
  leBytes 2 t.origin.toNat ++ leBytes 2 t.next.toNat ++ leBytes 2 (wholeSeconds now t.refreshed)

/-- A PARENTS entry. -/
def Parent.entry (p : Parent) : List Byte := leBytes 2 p.address.toNat ++ leBytes 2 p.cost

/-- The binding of a QUEUES entry. -/
def Binding.code : Binding → Addr
  | .uplink => uplinkAddr
  | .bound a => a
  | .localDelivery => 0

/-- The box index of a QUEUES entry, 0xFF for none. -/
def Source.boxByte : Source → Byte
  | .originated b => BitVec.ofNat 8 b.val
  | .relayed .. => 0xFF

/-- A QUEUES entry of a frame in a place. -/
def FrameRec.entry (place : Nat) (f : FrameRec) : List Byte :=
  leBytes 1 place ++ leBytes 2 f.origin.toNat ++ leBytes 2 f.destination.toNat ++ [f.sequence]
    ++ leBytes 1 f.cls.code ++ leBytes 2 f.binding.code.toNat ++ leBytes 1 f.total ++ leBytes 1 f.hops
    ++ [f.source.boxByte]

/-- A table of a QUERY: its entries in order and how many one box holds; none for a code that is no table (R185). -/
def State.table (s : State) (code : Nat) : Option (List (List Byte) × Nat) :=
  if code = 1 then some (s.nbr.records.map fun r => r.entry s.now, 10)
  else if code = 2 then some (s.route.trails.map fun t => t.entry s.now, 40)
  else if code = 3 then some (s.route.parents.map Parent.entry, 3)
  else if code = 4 then
    some (s.store.queue.map (FrameRec.entry 0) ++ s.store.parked.map (FrameRec.entry 1)
      ++ s.store.burst.map (FrameRec.entry 2) ++ s.store.staging.map (FrameRec.entry 3), 20)
  else if code = 5 then some (s.nbr.pins.map fun a => leBytes 2 a.toNat, 8)
  else if code = 6 then some (s.nbr.bars.map fun a => leBytes 2 a.toNat, 8)
  else none

/-- A QUERY is visited (R185). -/
def State.visitQuery (s : State) (b : Box) (r : List Byte) : State :=
  let code := byteAt r 6
  let start := leAt r 7 2
  match s.table code.toNat with
  | none => s.finishBox b .badreq []
  | some (entries, perBox) =>
    let shown := (entries.drop start).take perBox
    s.finishBox b .ok
      ([code] ++ leBytes 2 start ++ leBytes 1 shown.length ++ leBytes 2 entries.length ++ shown.flatten)

/-! ## PIN, UNPIN, BAR, UNBAR (R71, R72, R186) -/

/-- The details of a list request's outcome: the address and both lengths after the request (R186). -/
def State.listDetails (s : State) (a : Addr) : List Byte :=
  leBytes 2 a.toNat ++ leBytes 1 s.nbr.pins.length ++ leBytes 1 s.nbr.bars.length

/-- A list request completes. -/
def State.finishList (s : State) (b : Box) (a : Addr) (c : OutcomeCode) : State := s.finishBox b c (s.listDetails a)

/-- Rewrite the Neighbor Unit. -/
def State.nbrWith (s : State) (f : NbrUnit → NbrUnit) : State := { s with nbr := f s.nbr }

/-- The pin list, bar list and pinned flag after a PIN of an address not yet pinned (R71). -/
def State.pinned (s : State) (a : Addr) : State :=
  (s.nbrWith fun u => { u with pins := u.pins ++ [a], bars := u.bars.filter (· ≠ a) }).updNbr a
    fun r => { r with pinned := true }

/-- The pin list and pinned flag after an UNPIN (R71). -/
def State.unpinned (s : State) (a : Addr) : State :=
  (s.nbrWith fun u => { u with pins := u.pins.filter (· ≠ a) }).updNbr a fun r => { r with pinned := false }

/-- A PIN is visited (R71). -/
def State.visitPin (s : State) (b : Box) (r : List Byte) : State :=
  let a := word16 r 6
  if !nodeAddr a then s.finishList b a .badvalue
  else if s.nbr.pins.contains a then s.finishList b a .ok
  else if 8 ≤ s.nbr.pins.length then s.finishList b a .fullList
  else (s.pinned a).finishList b a .ok

/-- An UNPIN is visited (R71). -/
def State.visitUnpin (s : State) (b : Box) (r : List Byte) : State :=
  let a := word16 r 6
  if !nodeAddr a then s.finishList b a .badvalue else (s.unpinned a).finishList b a .ok

/-- A BAR puts an address on the bar list, takes its pin away and evicts its record (R72). The free-count changes of the
eviction are taken by the further scan (R179). The eviction raises NEIGHBOR_OUT, the review after it PARENT (assumption
log entry 56). -/
def State.barred (s : State) (a : Addr) : State :=
  let s := s.nbrWith fun u => { u with bars := u.bars ++ [a], pins := u.pins.filter (· ≠ a) }
  if (s.nbrOf a).isSome then (s.evict id a .barred).reviewIfDue else s

/-- A BAR is visited (R72, R186). -/
def State.visitBar (s : State) (b : Box) (r : List Byte) : State :=
  let a := word16 r 6
  if !nodeAddr a then s.finishList b a .badvalue
  else if s.nbr.bars.contains a then s.finishList b a .ok
  else if 8 ≤ s.nbr.bars.length then s.finishList b a .fullList
  else (s.barred a).finishList b a .ok

/-- An UNBAR is visited (R72). -/
def State.visitUnbar (s : State) (b : Box) (r : List Byte) : State :=
  let a := word16 r 6
  if !nodeAddr a then s.finishList b a .badvalue
  else (s.nbrWith fun u => { u with bars := u.bars.filter (· ≠ a) }).finishList b a .ok

end Sys2Proof.Machine
end

