-- ==== Sys2Proof/Machine/Scan.lean ====
section
/-! DEFINITION. The backlog scan (R171, R179) and the end of an event: every report answered (assumption log
entry 10). -/

namespace Sys2Proof.Machine

/-- The open write transaction has written a byte of the box, of its map byte or its body (R171). -/
def Port.touched (p : Port) (b : Box) : Bool :=
  match p.txn with
  | some (.writing _ boxes _) => boxes.contains b
  | _ => false

/-- The scan reads the request of a box (R171, R179): it is in the backlog and the open write has not written it. -/
def Port.visits (p : Port) (b : Box) : Bool := p.backlog.contains b && !p.touched b

/-- A request is handled by its kind; one that is faulty as a whole completes BADREQ without details, whatever its kind
(R180; assumption log entry 41). -/
def State.handle (s : State) (b : Box) : State :=
  let r := s.port.body b
  match requestKind r with
  | none => s.finishBox b .badreq []
  | some .send => s.visitSend b r
  | some .set => s.visitSet b r
  | some .query => s.visitQuery b r
  | some .pin => s.visitPin b r
  | some .unpin => s.visitUnpin b r
  | some .bar => s.visitBar b r
  | some .unbar => s.visitUnbar b r

/-- The scan comes to a box. What the request has called for, scans apart, is done before the next box. -/
def State.visit (s : State) (b : Box) : State :=
  if s.port.visits b then (s.handle b).settleQuiet settleRounds else s

/-- One scan, from head to tail (R179). -/
def State.scanOnce (s : State) : State :=
  s.port.backlog.foldl State.visit { s with work := { s.work with scan := false } }

/-- A scan and the further scans that its own triggers call for (R179). A further scan needs a SEND taken or a frame
dropped in the one before, so 256 cover every case. -/
def State.scans : Nat → State → State
  | 0, s => s
  | n + 1, s => if s.work.scan then State.scans n s.scanOnce else s

/-- The backlog is scanned as long as a scan is called for. -/
def State.runScan (s : State) : State := s.scans 256

/-- Every report is answered: a lost plan first, then scans, reviews, passes, the own listen, recomputation. -/
def State.settle : Nat → State → State
  | 0, s => s
  | n + 1, s =>
    if s.work.planLost then State.settle n s.losePlan
    else if s.work.scan then State.settle n s.runScan
    else if s.work.quiet then s
    else State.settle n s.quietRound

/-- The end of an event. -/
def State.finish (s : State) : State := { s.settle settleRounds with work := {} }

end Sys2Proof.Machine
end

