-- ==== Sys2Proof/Machine/HostPort.lean ====
section
/-! DEFINITION. The port instructions READ, WRITE, STATUS, IDENTIFY, LATCH and REARM, a first byte that is no
instruction, and the ends of READ and WRITE transactions (R166 to R168, R170 to R173, R175, R178). -/

namespace Sys2Proof.Machine

/-- What a command answers: its effect, with every report it has raised answered. No command faults or is refused. -/
def conclude (s : State) : Host.Outcome State Fault Refusal := .next s.finish

/-! ## The end of a transaction (R172, R175) -/

/-- Rewrite the Exchange Port. -/
def State.portWith (s : State) (f : Port → Port) : State := { s with port := f s.port }

/-- A box is appended to the lent pool and served at once: staged deliveries first, then the notice queue
(R113, R172, R189). -/
def State.lend (s : State) (b : Box) : State :=
  let s := s.portWith fun p => { p with backlog := p.backlog.filter (· ≠ b), lent := p.lent ++ [b] }
  (s.drain State.runScan 8).serveNotice

/-- The restore of an engine-owned box's map byte, with MAP_CLASH (R172). -/
def State.restoreMap (s : State) (b : Box) : State :=
  (s.portWith fun p => p.writeMap b (if p.taken.contains b then .taken else .lent)).flag
    fun f => { f with mapClash := true }

/-- One written map byte is examined with the value it holds now (R172). -/
def State.examine (s : State) (b : Box) : State :=
  let v := s.port.mapByte b
  if s.port.engineOwned b then s.restoreMap b
  else if v = MapCode.post.byte then
    s.portWith fun p => if p.backlog.contains b then p else { p with backlog := p.backlog ++ [b] }
  else if v = MapCode.lent.byte then s.lend b
  else
    let s := s.portWith fun p => { p with backlog := p.backlog.filter (· ≠ b) }
    if v = MapCode.empty.byte then s else s.flag fun f => { f with mapFault := true }

/-- The written map bytes of the open transaction (R167, R173). -/
def Port.writtenMaps (p : Port) : List Box :=
  match p.txn with
  | some (.writing _ _ maps) => maps
  | _ => []

/-- A written map byte is examined unless an engine write has come after the host's (R172, R173). -/
def State.examineIfWritten (s : State) (b : Box) : State :=
  if s.port.writtenMaps.contains b then s.examine b else s

/-- The end of a WRITE transaction (R172, R179): the written map bytes in ascending order, then a scan. The transaction
stays open until the whole examination is over, so a scan that the drain of a lent box causes meanwhile passes over the
boxes it has written (R171; assumption log entry 58). -/
def State.endWrite (s : State) : State :=
  let boxes := (List.finRange 127).filter fun b => s.port.writtenMaps.contains b
  ((boxes.foldl State.examineIfWritten s).portWith fun p => { p with txn := none }).callScan

/-- The end of a READ transaction: a snapshot taken while it was open is written into the page (R175). -/
def State.endRead (s : State) : State :=
  s.portWith fun p =>
    let p := { p with txn := none }
    match p.snapshot with
    | some page => { p.writePage page with snapshot := none }
    | none => p

/-- An open transaction ends, with everything its end calls for. -/
def State.endTransaction (s : State) : State :=
  match s.port.txn with
  | some (.reading _) => s.endRead
  | some (.writing ..) => s.endWrite.finish
  | none => s

/-- A new port instruction begins: chip select has risen since, so an open transaction ends first (R166; assumption log
entry 7). -/
def State.beginInstruction (s : State) : State := s.endTransaction.portWith fun p => { p with dataOut := [] }

/-- Data out drives some bytes. -/
def State.driveOut (s : State) (bs : List Byte) : State := s.portWith fun p => { p with dataOut := p.dataOut ++ bs }

/-! ## READ and WRITE (R167, R170) -/

/-- The address of 15 bits in the address bytes; bit 15 is ignored (R167). -/
def portAddress (a : BitVec 16) : BitVec 15 := a.setWidth 15

/-- A run of bytes read from the memory, the address wrapping from 0x7FFF to 0x0000 (R167). -/
def Memory.readWrap (m : Memory) (a : BitVec 15) : Nat → List Byte
  | 0 => []
  | n + 1 => m.read a.toNat :: Memory.readWrap m (a + 1) n

/-- `count` bytes of an open READ are clocked out (R167). -/
def State.readBytes (s : State) (count : Nat) : State :=
  match s.port.txn with
  | some (.reading a) =>
    (s.driveOut (Memory.readWrap s.port.mem a count)).portWith
      fun p => { p with txn := some (.reading (a + BitVec.ofNat 15 count)) }
  | _ => s

/-- The box whose body holds an address at or above 0x0100 (R170). -/
def bodyBox (a : Nat) : Box := Fin.ofNat 127 (a / 256 - 1)

/-- Add to a list that holds nothing twice. -/
def addOnce (b : Box) (l : List Box) : List Box := if l.contains b then l else l ++ [b]

/-- One complete data byte of a WRITE is handled by its address (R170). -/
def State.writeByte (s : State) (v : Byte) : State :=
  match s.port.txn with
  | some (.writing n boxes maps) =>
    let a := n.toNat
    if a < 0x7F then
      let b := Fin.ofNat 127 a
      s.portWith fun p =>
        { p with mem := Memory.write p.mem a v, txn := some (.writing (n + 1) (addOnce b boxes) (addOnce b maps)) }
    else if a < 0x100 then s.portWith fun p => { p with txn := some (.writing (n + 1) boxes maps) }
    else if s.port.engineOwned (bodyBox a) then
      (s.portWith fun p => { p with txn := some (.writing (n + 1) boxes maps) }).flag fun f => { f with bodyClash := true }
    else
      s.portWith fun p =>
        { p with mem := Memory.write p.mem a v, txn := some (.writing (n + 1) (addOnce (bodyBox a) boxes) maps) }
  | _ => s

/-! ## The rows -/

/-- UNKNOWN_INSTRUCTION (R166): ignored, with data out driven as 0 for its length, the instruction byte included. -/
def execUnknownInstruction (t : Sixteenth) (_code : Byte) (clocked : Nat) (s : State) : Host.Outcome State Fault Refusal :=
  conclude ((s.enter t).beginInstruction.driveOut (List.replicate (1 + clocked) 0))

/-- IDENTIFY (R168): vendor, part, revision, then zeros. -/
def execIdentify (t : Sixteenth) (clocked : Nat) (s : State) : Host.Outcome State Fault Refusal :=
  conclude ((s.enter t).beginInstruction.driveOut (padTo clocked [0x7A, 0xD8, 0x01]))

/-- READ (R167): a transaction is opened, data out 0 during the instruction and address bytes, or the open one goes
on. -/
def execRead (t : Sixteenth) (start : Option (BitVec 16)) (count : Nat) (s : State) : Host.Outcome State Fault Refusal :=
  let s := s.enter t
  match start with
  | some a =>
    let opened := s.beginInstruction.portWith fun p => { p with txn := some (.reading (portAddress a)) }
    conclude ((opened.driveOut [0, 0, 0]).readBytes count)
  | none => conclude (s.readBytes count)

/-- READ_END_PAGE_WRITE (R175): chip select rises at the end of a READ. -/
def execReadEndPageWrite (t : Sixteenth) (s : State) : Host.Outcome State Fault Refusal :=
  let s := s.enter t
  match s.port.txn with
  | some (.reading _) => conclude s.endRead
  | _ => conclude s

/-- WRITE (R167, R170): a transaction is opened, or the open one goes on. -/
def execWrite (t : Sixteenth) (start : Option (BitVec 16)) (data : List Byte) (s : State) :
    Host.Outcome State Fault Refusal :=
  let s := s.enter t
  match start with
  | some a =>
    conclude (data.foldl State.writeByte
      (s.beginInstruction.portWith fun p => { p with txn := some (.writing (portAddress a) [] []) }))
  | none => conclude (data.foldl State.writeByte s)

/-- WRITE_END (R172): chip select rises at the end of a WRITE. -/
def execWriteEnd (t : Sixteenth) (s : State) : Host.Outcome State Fault Refusal :=
  let s := s.enter t
  match s.port.txn with
  | some (.writing ..) => conclude s.endWrite
  | _ => conclude s

/-- The three STATUS bytes (R168; 12_formats.md, section 12.4). -/
def State.statusBytes (s : State) : List Byte :=
  [s.engineByte, s.port.attention.reasons.byte, s.port.flags.byte]

/-- STATUS (R168): sampled at the instruction byte. -/
def execStatus (t : Sixteenth) (clocked : Nat) (s : State) : Host.Outcome State Fault Refusal :=
  let s := (s.enter t).beginInstruction
  conclude (s.driveOut (padTo clocked s.statusBytes))

/-- LATCH (R168, R175). -/
def execLatch (t : Sixteenth) (s : State) : Host.Outcome State Fault Refusal :=
  conclude (s.enter t).beginInstruction.latchPage

/-- REARM (R168, R178). -/
def execRearm (t : Sixteenth) (s : State) : Host.Outcome State Fault Refusal :=
  conclude (s.enter t).beginInstruction.attentionRearm

/-- REPORT_TIMER_EXPIRY (R177). -/
def execReportTimerExpiry (t : Sixteenth) (s : State) : Host.Outcome State Fault Refusal :=
  let s := s.enter t
  match s.port.attention.timer with
  | .running e => if reached s.now e then conclude s.attentionTimer else conclude s
  | _ => conclude s

end Sys2Proof.Machine
end

