-- ==== Sys2Proof/Machine/Outstanding.lean ====
section
/-! DEFINITION. What is left of an exchange or a listen whose operation is not carried out (R21, R136, R153), and the
operation that waits for the report of a cut LISTEN (R152). -/

namespace Sys2Proof.Machine

/-- The response that ended one operation has come after the tick at which the next had to be issued (R152). -/
def State.tooLate (s : State) (next : Tick) : Bool := 0 < sdiff s.now next

/-- The receiver returns to IDLE and the rendezvous record goes (R139). -/
def State.endRendezvous (s : State) : State := { s with recv := {} }

/-! ## The end of a burst (R136) -/

/-- The frames still in the burst return; after an eviction of the target they are re-resolved, and a pass is called for
(R70, R107, R136). -/
def State.returnFrames (s : State) (p : Plan) : State :=
  if p.evicted then (s.resettleAll State.runScan p.target (s.store.burst.map (·.serial))).callPass
  else s.returnBurst

/-- The burst ends (R136): the sender is IDLE, the frames return, the plan is gone, the planner recomputes. -/
def State.endBurst (s : State) : State :=
  match s.planner.plan with
  | some p => ((s.planWith fun q => { q with tx := .idle }).returnFrames p).clearPlan.callRecompute
  | none => s.clearPlan.callRecompute

/-! ## An operation that is not carried out (R21, R153) -/

/-- The SENSE of an own listen window is over: the claim it was made within ends, and the next is to be placed
(R25, R29, R155). -/
def State.releaseListen (s : State) : State :=
  match s.radio.timeline.find? fun c => c.kind = .ownListen && reached s.now c.start with
  | some c => (s.dropClaims (· = c)).callListen c.instant
  | none => s

/-- What it means that an operation is abandoned, by whom it served (R153), and the same for one that is not issued for
want of time (R21, R152). A segment has listened to its due moment, or to now if that comes first (assumption log entry
19). -/
def State.forgo (s : State) (o : Operation) : State :=
  match o.purpose with
  | .burstData => s.endBurst
  | .ackWait => s.endBurst
  | .ackSend => s.endRendezvous
  | .continuation => s.endRendezvous
  | .ownListen => ((s.dropClaims fun c => c.kind = .ownListen).callListen s.recv.beat).countMissed.endRendezvous
  | .beaconSend => s.placeBeacon
  | .survey => s.releaseListen
  | .refresh a => s.dropClaims fun c => c.kind = .refreshListen && c.owner = a
  | .segment => s.countSegment o (if reached s.now o.due then o.due else s.now)
  | .resetFrontEnd => s

/-! ## The report of a cut LISTEN (R152) -/

/-- An operation that has waited comes too late: a LISTEN whose window is over, a SEND whose start has passed, the SEND of
a burst whose target has been evicted meanwhile (R70, R152; assumption log entry 16). -/
def State.pastIssue (s : State) (o : Operation) : Bool :=
  if o.kind = .listen then s.tooLate o.stop
  else s.tooLate o.start || (o.purpose = .burstData && s.planner.plan.any (·.evicted))

/-- The operation that waited is issued, or forgone if it comes too late (R152). -/
def State.issueWaiting (s : State) : State :=
  match s.radio.waiting with
  | some o =>
    let s := s.radioWith fun r => { r with waiting := none }
    if s.pastIssue o then s.forgo o else s.issue o
  | none => s

/-- The empty-window report of a cut LISTEN, in time (R152, R153): the strike flag is clear, and what waited for the
report follows. -/
def State.answerCut (s : State) (isIt : Purpose → Bool) : State :=
  match s.radio.op with
  | some o => if o.cut && isIt o.purpose && o.inTime s.now then s.answered.issueWaiting else s
  | none => s

end Sys2Proof.Machine
end

