-- ==== Sys2Proof/Machine/Receiver.lean ====
section
/-! DEFINITION. The receiver's side: own listen windows, the relay decision, the ACK, continuations (R12 to R14, R19,
R139 to R147, R150 to R152, R157). -/

namespace Sys2Proof.Machine

/-! ## Responses of a LISTEN (R152, R153) -/

/-- The LISTEN that serves `p`, when a frame is now delivered as its response in time: it has indicated a frame start. -/
def State.delivering (s : State) (p : Purpose) : Option Operation :=
  (s.answering p).filter fun o => o.started.isSome

/-- The LISTEN that serves `p`, when its empty-window report arrives now in time: no frame start and its window is
over. -/
def State.emptied (s : State) (p : Purpose) : Option Operation :=
  (s.answering p).filter fun o => o.started.isNone && reached s.now o.stop

/-! ## The own listen window (R12, R25) -/

/-- The own-listen claim's window opens: the LISTEN is issued (R12). -/
def State.openOwnListen (s : State) (c : Claim) : State :=
  { s.listen .ownListen c.channel c.start (c.stop.getD c.start) with
    recv := { state := .listening, beat := c.instant, channel := c.channel, record := none, ack := none } }

/-- The window of the own-listen claim begins now: it opens, a lower listen or segment still open ending for it, or is
lost to a hold (R156, R157, R158). -/
def State.startOwnListen (s : State) (c : Claim) : State :=
  match s.radioFor c with
  | some free => if c.lastsTo s.now then free.openOwnListen c else s.loseClaim c
  | none => s.loseClaim c

/-- The own-listen claim is being served: its LISTEN is open, receiving or waiting to be issued, or its SENSE is under
way. -/
def State.servingOwn (s : State) : Bool :=
  s.sensing || s.radio.serving.any fun o => o.purpose = .ownListen

/-- The own-listen claim whose window has begun and which no LISTEN serves yet. -/
def State.dueOwnListen (s : State) : Option Claim :=
  if s.servingOwn then none
  else s.radio.timeline.find? fun c => c.kind = .ownListen && reached s.now c.start

/-- OWN_LISTEN_WINDOW_OPEN (R12, R25, R157). -/
def execOwnListenWindowOpen (t : Sixteenth) (s : State) : Host.Outcome State Fault Refusal :=
  let s := s.enter t
  match s.dueOwnListen with
  | some c => conclude (s.startOwnListen c)
  | none => conclude s

/-! ## Frame starts (R12, R15, R19, R152, R157) -/

/-- The open LISTEN in whose window a frame start falls now, both ends included. -/
def State.hearing (s : State) : Option Operation :=
  s.radio.op.filter fun o =>
    o.kind = .listen && o.started.isNone && !o.cut && reached s.now o.start && reached o.stop s.now

/-- The exchange state a frame start leads to: RECEIVING or TAKING; none in a refresh listen or a segment. -/
def State.frameStarts (s : State) (p : Purpose) : State :=
  match p with
  | .ownListen => { s with recv := { s.recv with state := .receiving } }
  | .continuation => { s with recv := { s.recv with state := .receiving } }
  | .ackWait => s.planWith fun q => { q with tx := .taking }
  | _ => s

/-- A reception begins: the response falls due 150 ticks on, and claims whose windows have begun are lost (R152,
R157). -/
def State.indicate (s : State) (o : Operation) : State :=
  let s := s.radioWith fun r => { r with op := some { o with started := some s.now, due := s.now + 150 } }
  (s.frameStarts o.purpose).loseBegun fun c => c.purpose = some o.purpose

/-- FRAME_START_INDICATION (R152). -/
def execFrameStartIndication (t : Sixteenth) (s : State) : Host.Outcome State Fault Refusal :=
  let s := s.enter t
  match s.hearing with
  | some o => conclude (s.indicate o)
  | none => conclude s

/-! ## The relay decision (R140 to R145) -/

/-- What an ACK carries of the own state, fixed when the relay decision settles the DATA (R145, R146). -/
structure Answer where
  kind : AckKind
  flow : Flow
  grant : Nat
  exponent : Nat
  epoch : Byte
deriving DecidableEq, Repr

/-- The answer of a kind, with the own state as it stands. -/
def State.answer (s : State) (k : AckKind) : Answer :=
  { kind := k, flow := s.store.flow, grant := s.grantFor k, exponent := s.exponentInUse, epoch := s.sched.epoch }

/-- The answer equal to the own flow state (R141, R143, R144). -/
def State.ownAnswer (s : State) : Answer := s.answer s.store.flow.ackKind

/-- A refusal of FULL or NOROUTE is counted as it is decided (R151). -/
def State.refuse (s : State) (k : AckKind) : Answer × State := (s.countRefusal.answer k, s.countRefusal)

/-- The frame record of a received DATA with a hop limit and a binding (R143, R144). -/
def DataFrame.record (d : DataFrame) (f : RxFrame) (hopLimit : Nat) (binding : Binding) : FrameRec :=
  { origin := d.origin, destination := d.destination, sequence := d.sequence, cls := d.cls, hopLimit := hopLimit
    payload := d.payload, binding := binding, total := 0, hops := 0, lastFail := none, backoff := none, deadline := none
    source := .relayed d.transmitter f.signal (tickOf f.capture), serial := 0 }

/-- A local frame (R112, R143): written at once, staged, or refused FULL. -/
def State.settleLocal (s : State) (d : DataFrame) (f : RxFrame) : Answer × State :=
  let r := d.record f d.hopLimit .localDelivery
  match s.port.lent with
  | b :: _ =>
    let s := (s.deliver b r).record d.origin d.sequence
    (s.ownAnswer, s)
  | [] =>
    if s.store.staging.length < 8 && s.store.grants d.cls then
      let s := (s.stage r).record d.origin d.sequence
      (s.ownAnswer, s)
    else s.refuse .full

/-- A frame to be forwarded (R144): dropped for its hop limit, stored with the hop limit one lower, or refused FULL. -/
def State.settleForward (s : State) (d : DataFrame) (f : RxFrame) (binding : Binding) : Answer × State :=
  if d.hopLimit = 0 then
    let s := (s.record d.origin d.sequence).count fun c => { c with hopLimit := bump c.hopLimit }
    (s.ownAnswer, s)
  else if s.store.grants d.cls then
    let s := (s.storeFrame (d.record f (d.hopLimit - 1) binding)).record d.origin d.sequence
    (s.ownAnswer, s)
  else s.refuse .full

/-- The settlement of a frame that has passed the address tests (R141 to R144). -/
def State.settleData (s : State) (d : DataFrame) (f : RxFrame) (dir : Direction) : Answer × State :=
  if s.store.knows d.origin d.sequence then
    let s := s.count fun c => { c with duplicates := bump c.duplicates }
    (s.ownAnswer, s)
  else
    match dir with
    | .toHost => s.settleLocal d f
    | .bound a => s.settleForward d f (.bound a)
    | .uplink => s.settleForward d f .uplink
    | _ => s.countNoroute.refuse .noroute

/-- The frame counts as upward for the trail lesson (R95, R142). -/
def Direction.upward (dir : Direction) (d : DataFrame) : Bool :=
  dir = .uplink || (dir = .toHost && d.destination == uplinkAddr)

/-- What is handed on after the settlement: the trail lesson, then the loop check (R145). -/
def State.handOn (s : State) (d : DataFrame) (dir : Direction) : State :=
  let s := if dir.upward d then s.trailLesson d.origin d.transmitter else s
  if dir = .uplink then s.loopCheck d.transmitter else s

/-- The relay decision passes a frame over for its next hop, its transmitter or a bar (R140, tests 1 to 3). -/
def State.ignores (s : State) (d : DataFrame) : Bool :=
  d.nextHop != s.own || d.transmitter == s.own || s.nbr.bars.contains d.transmitter

/-- The relay decision (R140 to R145): an answer, or none, and the state it leaves. -/
def State.relay (s : State) (d : DataFrame) (f : RxFrame) : Option Answer × State :=
  let s := s.takeSignal d.transmitter f.signal
  if s.ignores d then (none, s)
  else
    match s.resolve d.destination (some d.transmitter) with
    | .invalid => (none, s.countNoroute)
    | dir =>
      let (a, s) := s.settleData d f dir
      (some a, s.handOn d dir)

/-! ## The ACK (R9, R13, R14, R146) -/

/-- The timing error of a first DATA captured at `c` for the own beat `t` (R14). -/
def timingError (c : Sixteenth) (t : Tick) : Int := clampInt (-1024) 1024 (sdiff16 c (ofTick t))

/-- The start of the ACK to a DATA (R9). -/
def ackStart (f : RxFrame) (d : DataFrame) : Sixteenth :=
  f.capture + sixteenths (16 * (airtime (dataLength d.payload.length) + 6))

/-- The ACK frame of an answer (R146). -/
def State.ackFrame (s : State) (d : DataFrame) (a : Answer) (error : Int) : AckFrame :=
  { kind := a.kind, transmitter := s.own, addressee := d.transmitter, sequence := d.sequence, timingError := error
    flow := a.flow, grant := a.grant, exponent := a.exponent, epoch := a.epoch }

/-- The rendezvous record once a DATA is answered (R139). -/
def Recv.answered (r : Recv) (d : DataFrame) (f : RxFrame) (k : AckKind) : Rendezvous :=
  match r.record with
  | some v => { v with frames := v.frames + 1, lastAnswer := k, lastMore := d.more }
  | none =>
    { beat := r.beat, firstCapture := f.capture, timingError := timingError f.capture r.beat
      transmitter := d.transmitter, frames := 1, lastAnswer := k, lastMore := d.more }

/-- The receiver enters TURNING with the ACK built (R13). -/
def State.turn (s : State) (d : DataFrame) (f : RxFrame) (a : Answer) : State :=
  let v := s.recv.answered d f a.kind
  { s with recv := { s.recv with
      state := .turning
      record := some v
      ack := some { bytes := (s.ackFrame d a v.timingError).bytes, start := ackStart f d } } }

/-- A DATA of the rendezvous goes to the relay decision; with an answer the receiver turns, unless the frame was
delivered too late for its ACK (R12, R13, R147, R152). -/
def State.receiveData (s : State) (d : DataFrame) (f : RxFrame) : State :=
  match s.relay d f with
  | (some a, s) => if s.tooLate (tickOf (ackStart f d)) then s.endRendezvous else s.turn d f a
  | (none, s) => s.endRendezvous

/-- The end of the first frame of an own listen window: the window and its claim end, and the next claim is to be placed
(R12, R25). -/
def State.closeWindow (s : State) : State :=
  (s.dropClaims fun c => c.kind = .ownListen).callListen s.recv.beat

/-- A frame heard in an own listen window (R12). -/
def State.ownFrame (s : State) (f : RxFrame) : State :=
  match readFrame f.bytes with
  | some (.data d) => s.receiveData d f
  | some (.beacon b) => (s.intake State.runScan b f.capture f.signal).endRendezvous
  | some (.ack _) => s.endRendezvous
  | none => s.countBadCheck.endRendezvous

/-- OWN_LISTEN_FRAME_END (R12). -/
def execOwnListenFrameEnd (t : Sixteenth) (f : RxFrame) (s : State) : Host.Outcome State Fault Refusal :=
  let s := s.enter t
  match s.delivering .ownListen with
  | some _ => conclude (s.answered.closeWindow.ownFrame f)
  | none => conclude s

/-- The empty own listen window ends and the receiver is IDLE (R12). While the survey is on, a SENSE is issued on the
window's channel within the claim, which stays until the SENSE is over (R29, R155; assumption log entry 51); otherwise
the claim ends and the next is to be placed. -/
def State.emptyWindow (s : State) : State :=
  let channel := s.recv.channel
  if s.settings.survey then (s.answered.endRendezvous.issueNow .sense .survey channel).loseBegun fun _ => false
  else s.answered.closeWindow.endRendezvous

/-- OWN_LISTEN_EMPTY (R12, R29). -/
def execOwnListenEmpty (t : Sixteenth) (s : State) : Host.Outcome State Fault Refusal :=
  let s := s.enter t
  match s.emptied .ownListen with
  | some _ => conclude s.emptyWindow
  | none => conclude (s.answerCut fun p => p = .ownListen)

/-- ACK_START (R13): the built ACK starts on the rendezvous channel. -/
def execAckStart (t : Sixteenth) (s : State) : Host.Outcome State Fault Refusal :=
  let s := s.enter t
  match s.recv.ack with
  | some a =>
    if s.recv.state = .turning && reached s.now (tickOf a.start) then
      conclude { s.send .ackSend s.recv.channel a.start a.bytes with recv := { s.recv with state := .answering } }
    else conclude s
  | none => conclude s

/-- The rendezvous goes on after this ACK (R13). -/
def Rendezvous.continues (v : Rendezvous) : Bool := v.lastAnswer = .go && v.lastMore && v.frames < 4

/-- The ACK has been sent (R13, R19): the receiver continues or is IDLE. -/
def State.ackDone (s : State) (o : Operation) : State :=
  let s := s.answered
  if s.recv.record.any Rendezvous.continues && !s.tooLate o.stop then
    { s.listen .continuation s.recv.channel o.stop (o.stop + 12) with
      recv := { s.recv with state := .continuing, ack := none } }
  else s.endRendezvous

/-- ACK_SENT (R13). -/
def execAckSent (t : Sixteenth) (s : State) : Host.Outcome State Fault Refusal :=
  let s := s.enter t
  match s.answering .ackSend with
  | some o => conclude (s.ackDone o)
  | none => conclude s

/-- A frame heard in a continuation (R19). -/
def State.continuingFrame (s : State) (f : RxFrame) : State :=
  match readFrame f.bytes with
  | some (.data d) =>
    if s.recv.record.any fun v => v.transmitter = d.transmitter then s.receiveData d f else s.endRendezvous
  | some (.beacon b) => (s.intake State.runScan b f.capture f.signal).endRendezvous
  | some (.ack _) => s.endRendezvous
  | none => s.countBadCheck.endRendezvous

/-- CONTINUING_FRAME_END (R19). -/
def execContinuingFrameEnd (t : Sixteenth) (f : RxFrame) (s : State) : Host.Outcome State Fault Refusal :=
  let s := s.enter t
  match s.delivering .continuation with
  | some _ => conclude (s.answered.continuingFrame f)
  | none => conclude s

/-- CONTINUING_EMPTY (R19). -/
def execContinuingEmpty (t : Sixteenth) (s : State) : Host.Outcome State Fault Refusal :=
  let s := s.enter t
  match s.emptied .continuation with
  | some _ => conclude s.answered.endRendezvous
  | none => conclude s

end Sys2Proof.Machine
end

