-- ==== Sys2Proof/Machine/Beacons.lean ====
section
/-! DEFINITION. Own beacon instants, the survey's reports and exclusion holds (R26, R27, R29, R32, R35). -/

namespace Sys2Proof.Machine

/-! ## The beacon (R26, R27, R35) -/

/-- The beacon claim on the timeline. -/
def State.beaconClaim (s : State) : Option Claim := s.radio.timeline.find? fun c => c.kind = .ownBeacon

/-- The beacon of the instant now is sent on the beacon channel in use, from 16 × t on (R20, R27). -/
def State.sendBeacon (s : State) : State :=
  s.send .beaconSend s.sched.beaconChannel (ofTick s.now) (s.beaconAt s.now).bytes

/-- The beacon claim of the instant now is served, or lost to a hold; a claim left from an earlier instant gives way to
the next (R26, R156, R157, R158). -/
def State.serveBeacon (s : State) (c : Claim) : State :=
  if c.instant = s.now then
    match s.radioFor c with
    | some free => free.sendBeacon
    | none => (s.loseClaim c).placeBeacon
  else if c.lastsTo s.now then s
  else s.placeBeacon

/-- What an own beacon instant does (R27, R35): the mask due is applied in every engine state, then the beacon is built
and sent if its claim holds. -/
def State.beaconInstant (s : State) : State :=
  let s := s.applyPendingAt s.now
  match s.beaconClaim with
  | some c => s.serveBeacon c
  | none => s

/-- OWN_BEACON_INSTANT (R27). At any other tick nothing is due (assumption log entry 30). -/
def execOwnBeaconInstant (t : Sixteenth) (s : State) : Host.Outcome State Fault Refusal :=
  let s := s.enter t
  if s.isOwnBeacon s.now then conclude s.beaconInstant else conclude s

/-- BEACON_SENT (R26): the claim for the following beacon instant is placed. -/
def execBeaconSent (t : Sixteenth) (s : State) : Host.Outcome State Fault Refusal :=
  let s := s.enter t
  match s.answering .beaconSend with
  | some _ => conclude s.answered.placeBeacon
  | none => conclude s

/-! ## Survey reports and holds (R29, R32) -/

/-- SENSE_REPORT (R29): busy when the energy is above the busy threshold. -/
def execSenseReport (t : Sixteenth) (energy : BitVec 8) (s : State) : Host.Outcome State Fault Refusal :=
  let s := s.enter t
  match s.answering .survey with
  | some o => conclude (s.answered.releaseListen.surveyReport o.channel (decide (s.settings.busyThreshold < energy.toInt)))
  | none => conclude s

/-- A channel of the exclusion set whose hold has run out. -/
def State.holdOver (s : State) (channel : Nat) : Bool :=
  s.sched.exclusions.any fun e => e.channel = channel && e.holdEnd.any fun h => reached s.now h

/-- EXCLUSION_HOLD_EXPIRY (R32). -/
def execExclusionHoldExpiry (t : Sixteenth) (channel : Fin 16) (s : State) : Host.Outcome State Fault Refusal :=
  let s := s.enter t
  if s.holdOver channel.val then conclude (s.endHold channel.val) else conclude s

end Sys2Proof.Machine
end

