-- ==== Sys2Proof/Machine/Control.lean ====
section
/-! DEFINITION. The CONTROL commands other than RESET, and the moment a pending STOP takes effect (R163 to R165, R169,
R176, R178, R118). -/

namespace Sys2Proof.Machine

/-- The engine enters a state; a scan is called for (R179). -/
def State.enterEngine (s : State) (e : EngineState) : State := (s.radioWith fun r => { r with engine := e }).callScan

/-! ## RUN (R163) -/

/-- RUN taken in HALTED with the own address set and the latch clear (R23, R38, R163). The MASK notice of a mask reset is
raised before the engine enters DISCOVERY, so a page latched by its completion shows HALTED (assumption log entry 80). -/
def State.startEngine (s : State) : State :=
  let s := s.fixSchedule.enterEngine .discovery
  s.beginLong true (seconds s.settings.discoverySpan)

/-- What RUN does (R163). -/
def State.runCommand (s : State) : State :=
  if s.radio.engine ≠ .halted then s
  else if s.own = 0 then s.flag fun f => { f with config := true }
  else if s.radio.faultLatch then s
  else s.startEngine

/-- RUN (R163). -/
def execRun (t : Sixteenth) (s : State) : Host.Outcome State Fault Refusal :=
  conclude (s.enter t).beginInstruction.runCommand

/-! ## STOP (R164) -/

/-- An exchange is in progress: a burst at the sender, a receiving rendezvous, or a reception in any listen (R164). -/
def State.inExchange (s : State) : Bool :=
  s.planner.tx ≠ .idle || s.recv.holds || s.radio.op.any fun o => o.started.isSome

/-- The drop of STOP: the queued frames in their order, then the parked ones in theirs (R118). The scan that the freed
cells call for is made with the one of the entry into HALTED, where a SEND left in place completes NOT_RUNNING (R179,
R181; assumption log entry 32). -/
def State.stopDrops (s : State) : State :=
  (s.store.queue ++ s.store.parked).foldl (fun s f => s.leave State.callScan f .stopped) s

/-- STOP takes effect (R164): frames dropped, the long listen over, the timeline empty, nothing waiting, the engine
HALTED. In this order: a page latched by an outcome of the drop still shows the engine state before it (assumption log
entry 73). -/
def State.stopNow (s : State) : State :=
  let s := s.dropPlan.stopDrops.endLong
  let s := s.radioWith fun r => { r with timeline := [], waiting := none }
  (s.radioWith fun r => { r with stopPending := false }).enterEngine .halted

/-- Any listen that is open without a reception ends at once (R164). -/
def State.cutListens (s : State) : State :=
  match s.radio.serving with
  | some o =>
    if o.isOpen then
      match o.purpose with
      | .ownListen => { s.cutListen with recv := {} }
      | .refresh _ => s.cutListen
      | .segment => s.cutSegment
      | _ => s
    else s
  | none => s

/-- A stop becomes pending (R164). A beacon that still waits to be sent goes with its claim. -/
def State.stopPends (s : State) : State :=
  let s := (s.radioWith fun r => { r with stopPending := true }).callScan
  let s := s.dropPlan.cutListens
  s.withdrawFree.radioWith fun r => { r with waiting := r.waiting.filter (·.purpose ≠ .beaconSend) }

/-- A pending stop takes effect once no exchange is in progress (R164). -/
def State.stopIfDue (s : State) : State := if s.radio.stopPending && !s.inExchange then s.stopNow else s

/-- What STOP does (R164). -/
def State.stopCommand (s : State) : State :=
  match s.radio.engine with
  | .halted => s
  | .faulted => s.stopNow
  | _ => if s.radio.stopPending then s else s.stopPends.stopIfDue

/-- STOP (R164). -/
def execStop (t : Sixteenth) (s : State) : Host.Outcome State Fault Refusal :=
  conclude (s.enter t).beginInstruction.stopCommand

/-- STOP_TAKES_EFFECT (R164, R118): the exchange in progress has ended. -/
def execStopTakesEffect (t : Sixteenth) (s : State) : Host.Outcome State Fault Refusal :=
  conclude (s.enter t).stopIfDue

/-! ## CLEAR FAULT (R165) -/

/-- The latch is cleared and a RESET-FRONT-END issued; the strike flag stays. -/
def State.clearLatch (s : State) : State := (s.radioWith fun r => { r with faultLatch := false }).resetFrontEnd

/-- What CLEAR FAULT does (R165). From FAULTED the discovery listen waits for the reset's answer. Its span is the setting in
force here, at the entry into DISCOVERY (R38), also where a SET changes that setting before the answer (R22; assumption log
entry 75). -/
def State.clearFaultCommand (s : State) : State :=
  match s.radio.engine with
  | .faulted =>
    let s := s.clearLatch.enterEngine .discovery
    { s with sched := { s.sched with
        long := some { discovery := true, span := seconds s.settings.discoverySpan, counted := 0, waiting := true } } }
  | .halted => if s.radio.faultLatch then s.clearLatch else s
  | _ => s

/-- CLEAR_FAULT (R165). -/
def execClearFault (t : Sixteenth) (s : State) : Host.Outcome State Fault Refusal :=
  conclude (s.enter t).beginInstruction.clearFaultCommand

/-! ## CLEAR FLAGS and the attention mask -/

/-- CLEAR_FLAGS (R176): the five flags cleared together. -/
def execClearFlags (t : Sixteenth) (s : State) : Host.Outcome State Fault Refusal :=
  conclude ((s.enter t).beginInstruction.flag fun _ => {})

/-- SET_ATTENTION_MASK (R169, R178). -/
def execSetAttentionMask (t : Sixteenth) (mask : BitVec 4) (s : State) : Host.Outcome State Fault Refusal :=
  conclude ((s.enter t).beginInstruction.attentionMask mask)

end Sys2Proof.Machine
end

