-- ==== Sys2Proof/Machine/Supply.lean ====
section
/-! DEFINITION. The SUPPLY input and the supply mode (R39, R40). -/

namespace Sys2Proof.Machine

/-- SUPPLY_LEVEL_CHANGE (R39). -/
def execSupplyLevelChange (t : Sixteenth) (high : Bool) (s : State) : Host.Outcome State Fault Refusal :=
  conclude ((s.enter t).supplyLevel high)

/-- A census in progress ends (R37, R40). -/
def State.endCensus (s : State) : State :=
  match s.sched.long with
  | some l => if l.discovery then s else s.endLong
  | none => s

/-- A change of supply mode (R40): the exponent in use, a census over in RESERVE, the own listen placed afresh, the
notice. -/
def State.changeSupply (s : State) (m : SupplyMode) : State :=
  let before := s.exponentInUse
  let s := { s with sched := { s.sched with supplyMode := m, debounce := none } }
  let s := if m = .reserve then s.endCensus else s
  let s := if s.exponentInUse = before then s else s.replaceListen
  s.notify (.supply m)

/-- SUPPLY_DEBOUNCE_END (R39). A run that has not yet lasted its time is left running. -/
def execSupplyDebounceEnd (t : Sixteenth) (s : State) : Host.Outcome State Fault Refusal :=
  let s := s.enter t
  match s.sched.debounce with
  | some r => if reached s.now r.due then conclude (s.changeSupply (.ofLevel r.high)) else conclude s
  | none => conclude s

end Sys2Proof.Machine
end

