-- ==== Sys2Proof/Machine/Listens.lean ====
section
/-! DEFINITION. Refresh, census and discovery listens (R36 to R38, R50, R150, R159 to R161). -/

namespace Sys2Proof.Machine

/-- A frame heard in a refresh listen, a census or a discovery (R150): a beacon goes to intake, a bad frame is counted,
any other is passed over. -/
def State.overhear (s : State) (f : RxFrame) : State :=
  match readFrame f.bytes with
  | some (.beacon b) => s.intake State.runScan b f.capture f.signal
  | some _ => s
  | none => s.countBadCheck

/-! ## Refresh listens (R161) -/

/-- The refresh claim of a neighbor. -/
def State.refreshClaim (s : State) (a : Addr) : Option Claim :=
  s.radio.timeline.find? fun c => c.kind = .refreshListen && c.owner = a

/-- The refresh listen of a neighbor is on: open, receiving or waiting to be issued. -/
def State.refreshing (s : State) (a : Addr) : Bool := s.radio.serving.any fun o => o.purpose = .refresh a

/-- The window of a refresh claim begins: it opens, or is lost (R157, R158, R161). One whose start lay in the past when it
was granted opens for the rest of its window (assumption log entry 63). -/
def State.startRefresh (s : State) (c : Claim) : State :=
  match s.radioFor c with
  | some free =>
    if c.lastsTo s.now then free.listen (.refresh c.owner) c.channel c.start (c.stop.getD c.start) else s.loseClaim c
  | none => s.loseClaim c

/-- REFRESH_LISTEN_OPEN (R161). -/
def execRefreshListenOpen (t : Sixteenth) (a : Addr) (s : State) : Host.Outcome State Fault Refusal :=
  let s := s.enter t
  match s.refreshClaim a with
  | some c => if reached s.now c.start && !s.refreshing a then conclude (s.startRefresh c) else conclude s
  | none => conclude s

/-- The neighbor that the outstanding refresh LISTEN serves. -/
def State.refreshTarget (s : State) : Option Addr :=
  s.radio.op.bind fun o =>
    match o.purpose with
    | .refresh a => some a
    | _ => none

/-- The refresh of a neighbor is over: its claim goes. -/
def State.endRefresh (s : State) (a : Addr) : State :=
  s.dropClaims fun c => c.kind = .refreshListen && c.owner = a

/-- The bytes hold a beacon of `a`. -/
def isBeaconOf (a : Addr) (bytes : List Byte) : Bool :=
  match readFrame bytes with
  | some (.beacon b) => b.transmitter == a
  | _ => false

/-- A frame heard in the refresh listen of `a` (R161): the neighbor's beacon ends it; after any other frame the listen
goes on to the window end, for that one tick after a frame that ends in it (R155; assumption log entry 67). -/
def State.refreshFrame (s : State) (a : Addr) (o : Operation) (f : RxFrame) : State :=
  let s := s.overhear f
  match s.refreshClaim a with
  | some c =>
    if isBeaconOf a f.bytes || !s.placing || !c.lastsTo s.now then s.endRefresh a
    else s.listen (.refresh a) o.channel s.now (c.stop.getD s.now)
  | none => s

/-- REFRESH_LISTEN_END (R161). -/
def execRefreshListenEnd (t : Sixteenth) (f : Option RxFrame) (s : State) : Host.Outcome State Fault Refusal :=
  let s := s.enter t
  match s.refreshTarget with
  | none => conclude s
  | some a =>
    match f with
    | some f =>
      match s.delivering (.refresh a) with
      | some o => conclude (s.answered.refreshFrame a o f)
      | none => conclude s
    | none =>
      match s.emptied (.refresh a) with
      | some _ => conclude (s.answered.endRefresh a)
      | none => conclude (s.answerCut fun p => p = .refresh a)

/-! ## Census and discovery (R36 to R38, R159) -/

/-- The census or discovery whose claim stands on the timeline and whose listening time is not yet used up; none while a
stop is pending (R164). -/
def State.longListen (s : State) : Option LongListen :=
  s.sched.long.filter fun l =>
    !s.radio.stopPending && !l.waiting && decide (l.counted < l.span) && s.radio.timeline.any fun c => c.kind.isLong

/-- LISTEN_SEGMENT_START (R152, R159): issued while no operation is outstanding, no hold lasts and no window of a higher
claim is open. -/
def execListenSegmentStart (t : Sixteenth) (s : State) : Host.Outcome State Fault Refusal :=
  let s := s.enter t
  match s.longListen with
  | some l =>
    if s.radio.op.isNone && !s.radioHeld && !s.higherOpen then
      conclude (s.listen .segment s.sched.beaconChannel s.now (s.segmentEnd l))
    else conclude s
  | none => conclude s

/-- LISTEN_SEGMENT_END (R159): a frame, or the end of the segment's window. The time counts (R37, R38). With a stop pending
the claim goes when the reception is over (R164). -/
def execListenSegmentEnd (t : Sixteenth) (f : Option RxFrame) (s : State) : Host.Outcome State Fault Refusal :=
  let s := s.enter t
  match f with
  | some f =>
    match s.delivering .segment with
    | some o => conclude ((s.countSegment o s.now).answered.withdrawFree.overhear f)
    | none => conclude s
  | none =>
    match s.emptied .segment with
    | some o => conclude (s.countSegment o o.stop).answered
    | none => conclude (s.answerCut fun p => p = .segment)

/-- The census, or the discovery, has counted its whole span, a reception under way included (R37, R38). -/
def State.longDone (s : State) (discovery : Bool) : Bool :=
  s.sched.long.any fun l => l.discovery == discovery && !l.waiting && decide (l.span ≤ s.listened l)

/-- CENSUS_END (R37). A segment open without a reception is cut; a reception goes on and counts toward no later census. -/
def execCensusEnd (t : Sixteenth) (s : State) : Host.Outcome State Fault Refusal :=
  let s := s.enter t
  if s.longDone false then conclude s.endLong else conclude s

/-- The engine enters RUNNING (R162): the own claims, the pass of R109, a recomputation. -/
def State.enterRunning (s : State) : State :=
  let s := s.endLong.enterEngine .running
  ((s.placeListen none).placeBeacon).callPass.callRecompute

/-- DISCOVERY_END (R38). A reception under way goes on in RUNNING. While a stop is pending the discovery ends with the STOP
(assumption log entry 70). -/
def execDiscoveryEnd (t : Sixteenth) (s : State) : Host.Outcome State Fault Refusal :=
  let s := s.enter t
  if s.radio.engine = .discovery && !s.radio.stopPending && s.longDone true then
    conclude s.enterRunning
  else conclude s

/-- Every lock-loss count falls by 1, not below 0 (R50). -/
def State.easeLockLoss (s : State) : State :=
  { s with nbr := { s.nbr with
      places := s.nbr.places.map fun p => p.map fun r =>
        { r with tracker := { r.tracker with lockLoss := r.tracker.lockLoss - 1 } } } }

/-- A census interval expiry (R36, R37, R50, R88). -/
def State.censusExpiry (s : State) : State :=
  let s := { s with sched := { s.sched with censusDue := s.now + ticks (seconds s.settings.censusInterval) } }
  let s := s.endCensus.easeLockLoss.review
  if s.placing && s.sched.supplyMode = .normal then s.beginLong false (seconds s.settings.censusSpan) else s

/-- CENSUS_INTERVAL_EXPIRY (R36). -/
def execCensusIntervalExpiry (t : Sixteenth) (s : State) : Host.Outcome State Fault Refusal :=
  let s := s.enter t
  if reached s.now s.sched.censusDue then conclude s.censusExpiry else conclude s

end Sys2Proof.Machine
end

