-- ==== Sys2Proof/Machine/Expiries.lean ====
section
/-! DEFINITION. The neighbor sweep with the refresh selection, and the expiries of parked frames and backoffs (R51, R68,
R78, R96, R108, R135, R160, R161). -/

namespace Sys2Proof.Machine

/-! ## The sweep of one record (R51, R68, R78) -/

/-- The tracker of a record is aged; a change of its state is reported, and a lapse removes the last-tried instant and
overtakes a refresh claim (R51, R52, R161). -/
def State.ageNbr (s : State) (a : Addr) : State :=
  match s.nbrOf a with
  | none => s
  | some r =>
    let t := r.tracker.age s.settings s.now
    let s' := s.updNbr a fun n =>
      { n with
        tracker := t
        lastTried := if t.state = .lapsed && r.tracker.state ≠ .lapsed then none else n.lastTried }
    if t.state = r.tracker.state then s'
    else (if t.state = .lapsed then s'.overtake a else s').reportTracker

/-- Why the sweep evicts a record, if it does (R68): probation where both tests hold at one sweep (assumption log entry
64). -/
def Neighbor.sweepReason (r : Neighbor) (st : Settings) (now : Tick) : Option EvictReason :=
  if r.pinned then none
  else if !r.active && seconds st.probationTime ≤ age now r.admission then some .probation
  else if r.tracker.state = .lapsed && st.evictionAge < r.tracker.lapseAge then some .age
  else none

/-- The eviction test of the sweep, after the admission time has been kept within its age (R68). -/
def State.sweepEvict (s : State) (a : Addr) : State :=
  let s := s.updNbr a fun r => { r with admission := keepAge s.now r.admission }
  match (s.nbrOf a).bind fun r => r.sweepReason s.settings s.now with
  | some why => s.evict State.runScan a why
  | none => s

/-- The sweep visits one record (R78). -/
def State.sweepOne (s : State) (a : Addr) : State :=
  (((s.updNbr a fun r => r.applyPendingNow s.now16).ageNbr a).testHold a).sweepEvict a

/-- The occupied places in ascending order of address (R78). -/
def State.sweepOrder (s : State) : List Addr :=
  (sortBy (fun (a b : Neighbor) => a.address.toNat < b.address.toNat) s.nbr.records).map (·.address)

/-! ## The refresh selection (R160, R161) -/

/-- A record is due for a refresh (R160). -/
def Neighbor.refreshDue (r : Neighbor) (st : Settings) (now : Tick) : Bool :=
  r.tracker.state ≠ .lapsed && r.tracker.lastSample.any fun t => (seconds st.refreshAge : Int) < sdiff now t

/-- The order of the second part: the earlier last sample, then the lower address (R160). -/
def Neighbor.sampledBefore (a b : Neighbor) : Bool :=
  match a.tracker.lastSample, b.tracker.lastSample with
  | some x, some y => sdiff x y < 0 || (x == y && a.address.toNat < b.address.toNat)
  | _, _ => false

/-- The first part: the members of the parent set that are due, by rank (R160). -/
def State.dueParents (s : State) : List Addr :=
  (s.route.parents.map (·.address)).filter fun a => (s.nbrOf a).any fun r => r.refreshDue s.settings s.now

/-- The second part: due records that frames are bound to, while the supply mode is NORMAL (R160). -/
def State.dueBound (s : State) : List Addr :=
  if s.sched.supplyMode = .normal then
    (sortBy Neighbor.sampledBefore (s.nbr.records.filter fun r =>
      r.refreshDue s.settings s.now && s.store.hasBound r.address)).map (·.address)
  else []

/-- The refresh selection (R160). -/
def State.selection (s : State) : List Addr :=
  let first := s.dueParents
  (first ++ s.dueBound.filter fun a => !first.contains a).take 4

/-- The refresh claims on the timeline. -/
def State.refreshClaims (s : State) : List Claim := s.radio.timeline.filter fun c => c.kind = .refreshListen

/-- Half the width of a refresh window: ceil(g / 16) + 4 ticks (R161). -/
def refreshReach (guard : Nat) : Nat := (guard + 15) / 16 + 4

/-- The refresh claim aimed at the beacon instant `b` of a record (R161). -/
def Neighbor.refreshClaimAt (r : Neighbor) (b : Tick) : Option Claim := do
  let c ← r.schedule
  let p ← r.tracker.predict b
  let w := ticks (refreshReach (r.tracker.guardAt b))
  some { kind := .refreshListen, start := tickOf p - w, stop := some (tickOf p + w), channel := c.beaconChannel
         owner := r.address, instant := b }

/-- A selected record without a refresh claim asks for one, while fewer than four stand (R161). -/
def State.requestRefresh (s : State) (a : Addr) : State :=
  if (s.refreshClaim a).isSome || 4 ≤ s.refreshClaims.length then s
  else
    let s := s.updNbr a fun r => r.applyPendingNow s.now16
    match (s.nbrOf a).bind fun r => (r.nextBeacon s.now16).bind r.refreshClaimAt with
    | some c => ((s.updNbr a fun r => { r with lastTried := some c.instant }).request c).2
    | none => s

/-- Refresh claims of records that have left the selection are withdrawn, unless open or held, or overtaken by the lapse
or staleness of a record that is still there (R161). -/
def State.withdrawRefresh (s : State) (chosen : List Addr) : State :=
  s.dropClaims fun c =>
    c.kind = .refreshListen && !chosen.contains c.owner && !s.refreshing c.owner
      && !(c.overtaken && (s.nbrOf c.owner).isSome)

/-- The refresh selection and its claims, while the engine is RUNNING and no stop is pending (R160, R161, R164). The
claims that left the selection are withdrawn before new ones are requested (assumption log entry 57). -/
def State.refresh (s : State) : State :=
  if s.placing then
    let chosen := s.selection
    chosen.foldl State.requestRefresh (s.withdrawRefresh chosen)
  else s

/-- The neighbor sweep (R78): the records in ascending order of address, then the trails (assumption log entry 62), and
after that work the refresh selection (entry 14). -/
def State.sweep (s : State) : State :=
  let s := s.nbrWith fun u => { u with nextSweep := u.nextSweep + 32768 }
  let s := (s.sweepOrder.foldl State.sweepOne s).expireTrails
  (s.settle settleRounds).refresh

/-- NEIGHBOR_SWEEP (R78). -/
def execNeighborSweep (t : Sixteenth) (s : State) : Host.Outcome State Fault Refusal :=
  let s := s.enter t
  if reached s.now s.nbr.nextSweep then conclude s.sweep else conclude s

/-! ## Frame expiries (R108, R135) -/

/-- The parked frame of an admission serial whose deadline has been reached (R108). -/
def State.expiredFrame (s : State) (serial : Nat) : Option FrameRec :=
  s.store.parked.find? fun f => f.serial = serial && f.deadline.any fun d => reached s.now d

/-- DISCARD_DEADLINE_EXPIRY (R108). -/
def execDiscardDeadlineExpiry (t : Sixteenth) (serial : Nat) (s : State) : Host.Outcome State Fault Refusal :=
  let s := s.enter t
  match s.expiredFrame serial with
  | some f => conclude (s.leave State.runScan f .discarded)
  | none => conclude s

/-- The frame of an admission serial whose backoff has been reached. -/
def State.backoffFrame (s : State) (serial : Nat) : Option FrameRec :=
  (s.store.queue ++ s.store.parked ++ s.store.burst).find? fun f =>
    f.serial = serial && f.backoff.any fun b => reached s.now b

/-- A backoff-until that has been reached is removed; for a queued frame the planner recomputes (R135). -/
def State.endBackoff (s : State) (f : FrameRec) : State :=
  let s' := s.storeWith fun st => st.mapWaiting fun g => if g.serial = f.serial then { g with backoff := none } else g
  if s.store.queue.any fun g => g.serial = f.serial then s'.callRecompute else s'

/-- BACKOFF_EXPIRY (R135). -/
def execBackoffExpiry (t : Sixteenth) (serial : Nat) (s : State) : Host.Outcome State Fault Refusal :=
  let s := s.enter t
  match s.backoffFrame serial with
  | some f => conclude (s.endBackoff f)
  | none => conclude s

end Sys2Proof.Machine
end

