-- ==== Sys2Proof/Machine/HostRequests.lean ====
section
/-! DEFINITION. The request rows: the scan visits one posted box (R179 to R186). The same handling runs inside every scan
(Scan.lean); assumption log entry 6. -/

namespace Sys2Proof.Machine

/-- The scan comes to box `b`, whose request is of the kind asked for (none: faulty as a whole). -/
def State.visitsKind (s : State) (b : Box) (k : Option ReqKind) : Bool :=
  s.port.visits b && requestKind (s.port.body b) == k

/-- REQUEST_BADREQ (R180). -/
def execRequestBadreq (t : Sixteenth) (b : Box) (s : State) : Host.Outcome State Fault Refusal :=
  let s := s.enter t
  if s.visitsKind b none then conclude (s.finishBox b .badreq []) else conclude s

/-- SEND (R181, R182). -/
def execSend (t : Sixteenth) (b : Box) (s : State) : Host.Outcome State Fault Refusal :=
  let s := s.enter t
  if s.visitsKind b (some .send) then conclude (s.visitSend b (s.port.body b)) else conclude s

/-- SET (R183, R184). -/
def execSet (t : Sixteenth) (b : Box) (s : State) : Host.Outcome State Fault Refusal :=
  let s := s.enter t
  if s.visitsKind b (some .set) then conclude (s.visitSet b (s.port.body b)) else conclude s

/-- QUERY (R185). -/
def execQuery (t : Sixteenth) (b : Box) (s : State) : Host.Outcome State Fault Refusal :=
  let s := s.enter t
  if s.visitsKind b (some .query) then conclude (s.visitQuery b (s.port.body b)) else conclude s

/-- PIN (R71, R186). -/
def execPin (t : Sixteenth) (b : Box) (s : State) : Host.Outcome State Fault Refusal :=
  let s := s.enter t
  if s.visitsKind b (some .pin) then conclude (s.visitPin b (s.port.body b)) else conclude s

/-- UNPIN (R71, R186). -/
def execUnpin (t : Sixteenth) (b : Box) (s : State) : Host.Outcome State Fault Refusal :=
  let s := s.enter t
  if s.visitsKind b (some .unpin) then conclude (s.visitUnpin b (s.port.body b)) else conclude s

/-- BAR (R72, R186). -/
def execBar (t : Sixteenth) (b : Box) (s : State) : Host.Outcome State Fault Refusal :=
  let s := s.enter t
  if s.visitsKind b (some .bar) then conclude (s.visitBar b (s.port.body b)) else conclude s

/-- UNBAR (R72, R186). -/
def execUnbar (t : Sixteenth) (b : Box) (s : State) : Host.Outcome State Fault Refusal :=
  let s := s.enter t
  if s.visitsKind b (some .unbar) then conclude (s.visitUnbar b (s.port.body b)) else conclude s

end Sys2Proof.Machine
end

