-- ==== Sys2Proof/Machine/Resets.lean ====
section
/-! DEFINITION. Power-on, RESETN and the reset control command (R1, R162, R174). -/

namespace Sys2Proof.Machine

/-- The debounce run of a reset: one of level low from tick 0 if SUPPLY is low, none otherwise (R39). -/
def resetDebounce (supplyHigh : Bool) : Option DebounceRun :=
  if supplyHigh then none else some { high := false, start := 0, due := ticks (seconds 2) }

/-- Every block as at power-on, with the SUPPLY input at a level. The commands still waiting and the count of random
draws are the model's own and stay. -/
def State.afterReset (s : State) (supplyHigh : Bool) : State :=
  { State.reset with
    sched := { State.reset.sched with supplyHigh := supplyHigh, debounce := resetDebounce supplyHigh }
    draws := s.draws
    pending := s.pending }

/-- POWER_ON (R1, R162, R174). -/
def execPowerOn (supplyHigh : Bool) (s : State) : Host.Outcome State Fault Refusal := .next (s.afterReset supplyHigh)

/-- RESETN (R174): as power-on, with the SUPPLY input as it stands. -/
def execResetn (s : State) : Host.Outcome State Fault Refusal := .next (s.afterReset s.sched.supplyHigh)

/-- The boxes of a collection in ascending index order. -/
def ascending (l : List Box) : List Box := (List.finRange 127).filter fun b => l.contains b

/-- The boxes whose map byte reads POST, in ascending order (R174). -/
def Port.posted (p : Port) : List Box := (List.finRange 127).filter fun b => p.mapByte b == MapCode.post.byte

/-- The reset control command (R174): every block as at power-on except the exchange memory; the boxes that were TAKEN
complete RESET, those that were lent become EMPTY, and the posted ones fill the backlog, which is then scanned. -/
def State.resetCommand (s : State) : State :=
  let base := s.afterReset s.sched.supplyHigh
  let base := { base with port := { base.port with mem := s.port.mem } }
  let s' := (ascending s.port.taken).foldl (fun s b => s.finishBox b .reset []) base
  let s' := (ascending s.port.lent).foldl (fun s b => s.portWith fun p => p.writeMap b .empty) s'
  (s'.portWith fun p => { p with backlog := p.posted }).callScan

/-- RESET (R169, R174). -/
def execReset (t : Sixteenth) (s : State) : Host.Outcome State Fault Refusal :=
  conclude (s.enter t).beginInstruction.resetCommand

end Sys2Proof.Machine
end

