-- ==== Sys2Proof/Config.lean ====
section
/-! DEFINITION. The free values of the model: what the manual leaves open and the machine goes on with. -/

namespace Sys2Proof

/-- The `n`-th random draw of the part. R135 draws the backoff factor r "uniformly from 1 to 2^min(h, 3)" and
gives no generator, so the value is FREE: this constant has no body and nothing can be proved of it.
The range is imposed where the draw is used (`Machine.backoffFactor`). Assumption log entry 5. -/
opaque Config.freeDraw : Nat → Nat

end Sys2Proof
end

