-- ==== Sys2Proof/Machine/Sender.lean ====
section
/-! DEFINITION. The sender's side: freezing a plan, the burst on air, outcomes, backoff and the burst's end (R15, R16,
R18, R125, R126, R129 to R137). -/

namespace Sys2Proof.Machine

/-! ## Freezing (R125, R126) -/

/-- The local clock has reached 32 ticks before the plan's local start: 16 × now ≥ p − 512 (R125). -/
def State.freezeDue (s : State) (p : Plan) : Bool := 0 ≤ sdiff16 (ofTick s.now) (p.start - 512)

/-- The aim of a plan: its target and its own instant (R125). -/
def Plan.aim (p : Plan) : Aim := (p.target, p.instant)

/-- The frames of the burst that is built for a plan (R126). -/
def State.buildBurst (s : State) (p : Plan) : List FrameRec × State :=
  let (el, s) := State.eligible (some p.aim) s.store.queue s
  (s.burstFor el p.target, s)

/-- The chosen cells move into the in-flight burst, in order (R110, R126). -/
def State.takeBurst (s : State) (fs : List FrameRec) : State :=
  s.storeWith fun st =>
    { st with queue := st.queue.filter fun f => !(fs.any fun g => g.serial = f.serial), burst := fs }

/-- The plan is frozen with its burst, and its claim re-requested with the burst's span (R126). -/
def State.freezeWith (s : State) (p : Plan) (fs : List FrameRec) : State :=
  let p := { p with winStop := p.winStart + ticks (burstSpan fs) }
  State.claimPlan ((s.takeBurst fs).planWith fun q => { q with state := .frozen, plan := some p }) p

/-- The two questions of freezing, asked in order, both at the plan's own instant (R125; assumption log entry 49). -/
def State.freezeTests (s : State) (p : Plan) : Bool × State :=
  match s.timingTest p.target (some p.instant) with
  | (false, s) => (false, s)
  | (true, s) => s.ask p.target p.cls (some p.aim)

/-- A plan freezes, or is dropped (R125). A burst that comes out empty drops it as well (assumption log entry 28). -/
def State.freeze (s : State) (p : Plan) : State :=
  match s.freezeTests p with
  | (false, s) => s.dropPlan
  | (true, s) =>
    match s.buildBurst p with
    | ([], s) => s.dropPlan
    | (fs, s) => s.freezeWith p fs

/-- The open plan whose freezing is due. -/
def State.dueFreeze (s : State) : Option Plan :=
  if s.planner.state = .open then s.planner.plan.filter s.freezeDue else none

/-- PLAN_FREEZE (R125). -/
def execPlanFreeze (t : Sixteenth) (s : State) : Host.Outcome State Fault Refusal :=
  let s := s.enter t
  match s.dueFreeze with
  | some p => conclude (s.freeze p)
  | none => conclude s

/-! ## DATA on air (R15, R129) -/

/-- The DATA frame of a cell, built when its place in the burst comes up (R129). -/
def State.dataFrame (s : State) (p : Plan) (f : FrameRec) (more : Bool) : DataFrame :=
  { cls := f.cls, more := more, transmitter := s.own, nextHop := p.target, origin := f.origin
    destination := f.destination, sequence := f.sequence, hopLimit := f.hopLimit, payload := f.payload }

/-- The first frame of what remains of the burst is sent from `start` on: the sender is SENDING (R15). -/
def State.sendData (s : State) (p : Plan) (f : FrameRec) (start : Sixteenth) : State :=
  let d := s.dataFrame p f (1 < s.store.burst.length)
  let s := s.send .burstData p.channel start d.bytes
  s.planWith fun q =>
    { q with
      tx := .sending
      txSequence := f.sequence
      txEnd := start + sixteenths (16 * airtime (dataLength f.payload.length)) }

/-! ## The burst begins (R129) -/

/-- The burst begins on air (R129, R157): the plan is in BURST, the hold begins. -/
def State.beginBurst (s : State) (p : Plan) (f : FrameRec) : State :=
  let s := s.planWith fun q => { q with state := .burst }
  (s.sendData p f p.start).loseBegun fun c => c.kind.isTransmission

/-- The frozen plan whose local start has been reached, with the first frame of its burst. -/
def State.dueBurst (s : State) : Option (Plan × FrameRec) :=
  if s.planner.state = .frozen then
    match s.planner.plan, s.store.burst with
    | some p, f :: _ => if reached s.now (tickOf p.start) then some (p, f) else none
    | _, _ => none
  else none

/-- BURST_START (R129). An ALARM burst ends an open refresh listen (R156); a radio that is held then takes the claim from
the plan (R157, R158). -/
def execBurstStart (t : Sixteenth) (s : State) : Host.Outcome State Fault Refusal :=
  let s := s.enter t
  match s.dueBurst with
  | some (p, f) =>
    match s.radioFor p.claim with
    | some free => conclude (free.beginBurst p f)
    | none => conclude s.losePlan
  | none => conclude s

/-- The DATA has been sent (R15): the sender listens for the ACK until 12 ticks after the DATA's end. -/
def State.awaitAck (s : State) (o : Operation) : State :=
  let stop := tickOf s.planner.txEnd
  if s.tooLate stop then s.endBurst
  else (s.listen .ackWait o.channel stop (stop + 12)).planWith fun q => { q with tx := .awaiting }

/-- DATA_SENT (R15). -/
def execDataSent (t : Sixteenth) (s : State) : Host.Outcome State Fault Refusal :=
  let s := s.enter t
  match s.answering .burstData with
  | some o => conclude (s.answered.awaitAck o)
  | none => conclude s

/-! ## A DATA without an ACK (R134, R135) -/

/-- The attempt counts after a failure (R134, step 1). -/
def FrameRec.failed (f : FrameRec) (st : Settings) : FrameRec :=
  { f with total := f.total + 1, hops := if f.hops < st.perHopLimit then f.hops + 1 else f.hops }

/-- The reroute of an uplink frame that has used up its hop attempts (R134, step 3). -/
def FrameRec.rerouted (f : FrameRec) (st : Settings) (p : Plan) : FrameRec :=
  if f.binding = .uplink && st.perHopLimit ≤ f.hops then
    { f with lastFail := if p.evicted then f.lastFail else some p.target, hops := 0 }
  else f

/-- The factor r of a backoff from the `n`-th random draw: 1 to 2^min(h, 3) (R135). The draw is a free value
(assumption log entry 5). -/
def backoffFactor (n hops : Nat) : Nat := 1 + Config.freeDraw n % 2 ^ min hops 3

/-- The backoff of a frame whose DATA was found without an ACK at `found`: r beat intervals of the failed target
(R135). -/
def State.backoffUntil (s : State) (found : Tick) (f : FrameRec) (exponent : Nat) : Tick :=
  found + ticks (backoffFactor s.draws f.hops * 2 ^ exponent)

/-- The frame of the DATA under way rewritten in the burst. -/
def State.putHead (s : State) (f : FrameRec) : State :=
  s.storeWith fun st => { st with burst := f :: st.burst.drop 1 }

/-- The backoff of a failed frame is set, unless its target has been evicted (R135). -/
def State.setBackoff (s : State) (found : Tick) (p : Plan) (f : FrameRec) : State :=
  match (s.nbrOf p.target).bind fun r => r.schedule with
  | some c =>
    if p.evicted then s.putHead f
    else { s.putHead { f with backoff := some (s.backoffUntil found f c.exponent) } with draws := s.draws + 1 }
  | none => s.putHead f

/-- The disposal of a frame without an ACK (R134). -/
def State.failFrame (s : State) (found : Tick) (p : Plan) (f : FrameRec) : State :=
  let f := f.failed s.settings
  if s.settings.totalLimit ≤ f.total then (s.putHead f).leave State.runScan f .exhausted
  else s.setBackoff found p (f.rerouted s.settings p)

/-- A DATA is found without an ACK at `found`: Q sample 0 with the review it calls for, then the disposal, then the
burst's end (R88, R134, R136; assumption log entry 45). -/
def State.noAck (s : State) (found : Tick) : State :=
  match s.planner.plan, s.store.burst with
  | some p, f :: _ =>
    let s := if p.evicted then s else (s.takeQ p.target false).reviewIfDue
    (s.failFrame found p f).endBurst
  | _, _ => s.endBurst

/-- AWAITING_EMPTY (R15). -/
def execAwaitingEmpty (t : Sixteenth) (s : State) : Host.Outcome State Fault Refusal :=
  let s := s.enter t
  match s.emptied .ackWait with
  | some o => conclude (s.answered.noAck o.stop)
  | none => conclude s

/-! ## An accepted ACK (R16, R130 to R133) -/

/-- The frame is the ACK of the DATA just sent (R16). -/
def State.accepts (s : State) (p : Plan) (k : AckFrame) : Bool :=
  k.transmitter == p.target && k.addressee == s.own && k.sequence == s.planner.txSequence

/-- What an accepted ACK says of the neighbor's hold (R17, R76). -/
def AckFrame.holds (k : AckFrame) : Bool :=
  match k.kind with
  | .go => false
  | .noroute => k.flow = .hold
  | _ => true

/-- What an accepted ACK brings to the Neighbor Unit and the Route Unit (R73, R93, R130). -/
def State.ackIntake (s : State) (p : Plan) (k : AckFrame) (level : BitVec 8) : State :=
  let a := p.target
  let s := (s.takeSignal a level).takeQ a true
  let s := s.takeSample a .ack p.instant (p.start - BitVec.ofInt 36 k.timingError)
  let s := ((s.takeAckSchedule a p.instant k).setHeld a k.holds).takeGrant a k.grant
  let s := if k.kind = .noroute then (s.updNbr a fun r => { r with cost := 4095 }).callReview else s
  s.reviewIfDue

/-- The start of the next DATA after an ACK captured at `c`: 35 ticks on (R9). -/
def nextDataStart (c : Sixteenth) : Sixteenth := c + 560

/-- The burst goes on after a GO with its next frame, if one remains (R18, R131). -/
def State.continueBurst (s : State) (p : Plan) (f : RxFrame) : State :=
  let next := nextDataStart f.capture
  if s.store.burst.isEmpty || p.evicted || s.tooLate (tickOf next) then s.endBurst
  else s.planWith fun q => { q with tx := .spacing, txNext := next }

/-- The disposal of the frame of an accepted ACK (R131 to R133). -/
def State.disposeAcked (s : State) (p : Plan) (r : FrameRec) (k : AckFrame) (f : RxFrame) : State :=
  match k.kind with
  | .go => (s.leave State.runScan r (.forwarded p.target)).continueBurst p f
  | .hold => (s.leave State.runScan r (.forwarded p.target)).endBurst
  | .full => s.endBurst
  | .noroute =>
    match r.binding with
    | .bound _ => (s.leave State.runScan r (.noroute p.target)).endBurst
    | _ => s.endBurst

/-- An accepted ACK is taken (R130). -/
def State.acked (s : State) (k : AckFrame) (f : RxFrame) : State :=
  match s.planner.plan, s.store.burst with
  | some p, r :: _ =>
    let s := if p.evicted then s else s.ackIntake p k f.signal
    s.disposeAcked p r k f
  | _, _ => s.endBurst

/-- The tick at which a received frame ended (R8, R135). -/
def frameEnd (f : RxFrame) : Tick := tickOf (f.capture + sixteenths (16 * airtime f.bytes.length))

/-- A frame taken in TAKING (R16). The intake of a beacon comes before the handling of the DATA it leaves without an
ACK (assumption log entry 55). -/
def State.takeFrame (s : State) (f : RxFrame) : State :=
  match readFrame f.bytes with
  | some (.ack k) => if s.planner.plan.any fun p => s.accepts p k then s.acked k f else s.noAck (frameEnd f)
  | some (.beacon b) => (s.intake State.runScan b f.capture f.signal).noAck (frameEnd f)
  | some (.data _) => s.noAck (frameEnd f)
  | none => s.countBadCheck.noAck (frameEnd f)

/-- TAKING_FRAME_END (R16). -/
def execTakingFrameEnd (t : Sixteenth) (f : RxFrame) (s : State) : Host.Outcome State Fault Refusal :=
  let s := s.enter t
  match s.delivering .ackWait with
  | some _ => conclude (s.answered.takeFrame f)
  | none => conclude s

/-- The next DATA of the burst, or the burst's end when the target has been evicted meanwhile (R18, R70). An eviction during
SPACING forbids a further DATA, and no rule says when that burst ends: its frames stay in it until SPACING_END, where it
ends here (assumption log entry 74). -/
def State.nextData (s : State) : State :=
  match s.planner.plan, s.store.burst with
  | some p, f :: _ => if p.evicted then s.endBurst else s.sendData p f s.planner.txNext
  | _, _ => s.endBurst

/-- SPACING_END (R18). -/
def execSpacingEnd (t : Sixteenth) (s : State) : Host.Outcome State Fault Refusal :=
  let s := s.enter t
  if s.planner.tx = .spacing && reached s.now (tickOf s.planner.txNext) then conclude s.nextData else conclude s

end Sys2Proof.Machine
end

