-- ==== Sys2Proof/Machine/Supervision.lean ====
section
/-! DEFINITION. The supervision of front-end operations: a reset answered, a timeout, a late response (R152 to R154). -/

namespace Sys2Proof.Machine

/-- The RESET-FRONT-END of a CLEAR FAULT has been answered: the waiting discovery begins (R38, R165), with the span fixed at
the entry into DISCOVERY (assumption log entry 75). -/
def State.beginWaiting (s : State) : State :=
  match s.sched.long with
  | some l => if l.waiting then s.beginLong l.discovery l.span else s
  | none => s

/-- RESET_FRONT_END_READY (R153): the radio is free; the strike flag stays as it stands. With a stop pending a claim held
for the reset goes (R164). -/
def execResetFrontEndReady (t : Sixteenth) (s : State) : Host.Outcome State Fault Refusal :=
  let s := s.enter t
  match s.answering .resetFrontEnd with
  | some _ => conclude (s.radioWith fun r => { r with op := none }).withdrawFree.beginWaiting
  | none => conclude s

/-- The operation outstanding is abandoned (R153). A LISTEN already cut serves nobody: what is forgone is the operation
that waits for its report, which is not issued (assumption log entry 16). -/
def State.abandon (s : State) : State :=
  let free := s.radioWith fun r => { r with op := none, waiting := none }
  match s.radio.serving with
  | some o => free.forgo o
  | none => free

/-- A first timeout (R153): the operation is abandoned, the strike flag set, a RESET-FRONT-END issued. -/
def State.firstTimeout (s : State) : State :=
  let s := s.abandon.radioWith fun r => { r with strike := true }
  s.resetFrontEnd.loseBegun fun _ => false

/-- The entry into FAULTED (R154): the operation abandoned, every claim withdrawn, the plan dropped, parked frames back in
the queue, a census or discovery over. -/
def State.enterFaulted (s : State) : State :=
  let s := (s.enterEngine .faulted).abandon.timelineWith fun _ => []
  s.dropPlan.unpark.endLong

/-- The radio fault latches at the timeout of `o` (R154): FAULT is set before the RADIO_FAULT notice is raised (assumption
log entry 68). With a stop pending the exchange ends first, and the stop takes effect at once from FAULTED (R164). -/
def State.latchFault (s : State) (o : Operation) : State :=
  let s := s.radioWith fun r => { r with faultLatch := true }
  let s := if s.radio.engine = .halted || s.radio.stopPending then s.abandon else s
  let s := if s.radio.engine = .halted then s else s.enterFaulted
  let s := (s.flag fun f => { f with radioFault := true }).attentionFault
  (s.notify (.radioFault o.kind)).stopIfDue

/-- The operation outstanding has timed out: 131 ticks have passed after its due moment (R153). -/
def State.timedOut (s : State) : Option Operation := s.radio.op.filter fun o => 131 ≤ sdiff s.now o.due

/-- OPERATION_TIMEOUT (R153, R154). -/
def execOperationTimeout (t : Sixteenth) (s : State) : Host.Outcome State Fault Refusal :=
  let s := s.enter t
  match s.timedOut with
  | some o => if s.radio.strike then conclude (s.latchFault o) else conclude s.firstTimeout
  | none => conclude s

/-- LATE_RESPONSE (R153): discarded. -/
def execLateResponse (t : Sixteenth) (s : State) : Host.Outcome State Fault Refusal := conclude (s.enter t)

end Sys2Proof.Machine
end

