-- ==== Sys2Proof/Machine/Dispatch.lean ====
section
/-! DEFINITION. One arm for each command: the direct call of its meaning. -/

namespace Sys2Proof.Machine

/-- The effect of a command on everything but the queue of waiting commands. -/
def exec (i : Instr) (s : State) : Host.Outcome State Fault Refusal :=
  match i with
  | .powerOn supplyHigh => Sys2Proof.Machine.execPowerOn supplyHigh s
  | .resetn => Sys2Proof.Machine.execResetn s
  | .supplyLevelChange t high => Sys2Proof.Machine.execSupplyLevelChange t high s
  | .supplyDebounceEnd t => Sys2Proof.Machine.execSupplyDebounceEnd t s
  | .unknownInstruction t code clocked => Sys2Proof.Machine.execUnknownInstruction t code clocked s
  | .identify t clocked => Sys2Proof.Machine.execIdentify t clocked s
  | .read t start count => Sys2Proof.Machine.execRead t start count s
  | .readEndPageWrite t => Sys2Proof.Machine.execReadEndPageWrite t s
  | .write t start data => Sys2Proof.Machine.execWrite t start data s
  | .writeEnd t => Sys2Proof.Machine.execWriteEnd t s
  | .status t clocked => Sys2Proof.Machine.execStatus t clocked s
  | .latch t => Sys2Proof.Machine.execLatch t s
  | .rearm t => Sys2Proof.Machine.execRearm t s
  | .run t => Sys2Proof.Machine.execRun t s
  | .stop t => Sys2Proof.Machine.execStop t s
  | .clearFault t => Sys2Proof.Machine.execClearFault t s
  | .reset t => Sys2Proof.Machine.execReset t s
  | .clearFlags t => Sys2Proof.Machine.execClearFlags t s
  | .setAttentionMask t mask => Sys2Proof.Machine.execSetAttentionMask t mask s
  | .requestBadreq t box => Sys2Proof.Machine.execRequestBadreq t box s
  | .send t box => Sys2Proof.Machine.execSend t box s
  | .set t box => Sys2Proof.Machine.execSet t box s
  | .query t box => Sys2Proof.Machine.execQuery t box s
  | .pin t box => Sys2Proof.Machine.execPin t box s
  | .unpin t box => Sys2Proof.Machine.execUnpin t box s
  | .bar t box => Sys2Proof.Machine.execBar t box s
  | .unbar t box => Sys2Proof.Machine.execUnbar t box s
  | .ownListenWindowOpen t => Sys2Proof.Machine.execOwnListenWindowOpen t s
  | .frameStartIndication t => Sys2Proof.Machine.execFrameStartIndication t s
  | .ownListenFrameEnd t f => Sys2Proof.Machine.execOwnListenFrameEnd t f s
  | .ackStart t => Sys2Proof.Machine.execAckStart t s
  | .ackSent t => Sys2Proof.Machine.execAckSent t s
  | .continuingFrameEnd t f => Sys2Proof.Machine.execContinuingFrameEnd t f s
  | .continuingEmpty t => Sys2Proof.Machine.execContinuingEmpty t s
  | .planFreeze t => Sys2Proof.Machine.execPlanFreeze t s
  | .burstStart t => Sys2Proof.Machine.execBurstStart t s
  | .dataSent t => Sys2Proof.Machine.execDataSent t s
  | .awaitingEmpty t => Sys2Proof.Machine.execAwaitingEmpty t s
  | .takingFrameEnd t f => Sys2Proof.Machine.execTakingFrameEnd t f s
  | .spacingEnd t => Sys2Proof.Machine.execSpacingEnd t s
  | .ownBeaconInstant t => Sys2Proof.Machine.execOwnBeaconInstant t s
  | .beaconSent t => Sys2Proof.Machine.execBeaconSent t s
  | .ownListenEmpty t => Sys2Proof.Machine.execOwnListenEmpty t s
  | .senseReport t energy => Sys2Proof.Machine.execSenseReport t energy s
  | .exclusionHoldExpiry t channel => Sys2Proof.Machine.execExclusionHoldExpiry t channel s
  | .refreshListenOpen t neighbor => Sys2Proof.Machine.execRefreshListenOpen t neighbor s
  | .refreshListenEnd t f => Sys2Proof.Machine.execRefreshListenEnd t f s
  | .censusIntervalExpiry t => Sys2Proof.Machine.execCensusIntervalExpiry t s
  | .listenSegmentStart t => Sys2Proof.Machine.execListenSegmentStart t s
  | .listenSegmentEnd t f => Sys2Proof.Machine.execListenSegmentEnd t f s
  | .censusEnd t => Sys2Proof.Machine.execCensusEnd t s
  | .discoveryEnd t => Sys2Proof.Machine.execDiscoveryEnd t s
  | .resetFrontEndReady t => Sys2Proof.Machine.execResetFrontEndReady t s
  | .operationTimeout t => Sys2Proof.Machine.execOperationTimeout t s
  | .lateResponse t => Sys2Proof.Machine.execLateResponse t s
  | .neighborSweep t => Sys2Proof.Machine.execNeighborSweep t s
  | .discardDeadlineExpiry t serial => Sys2Proof.Machine.execDiscardDeadlineExpiry t serial s
  | .backoffExpiry t serial => Sys2Proof.Machine.execBackoffExpiry t serial s
  | .reportTimerExpiry t => Sys2Proof.Machine.execReportTimerExpiry t s
  | .stopTakesEffect t => Sys2Proof.Machine.execStopTakesEffect t s

end Sys2Proof.Machine
end

