-- ==== Sys2Proof/Safety.lean ====
section
/-! DEFINITION. What counts as a safe step, and the words the statements use: the parts of the state that follow-up work
leaves alone, and the invariants the manual gives its collections. -/

namespace Sys2Proof

/-! ## Commands -/

/-- The local instant a command is taken at; the pin resets carry none. -/
def Instr.time : Instr → Option Sixteenth
  | .powerOn _ => none
  | .resetn => none
  | .supplyLevelChange t _ => some t
  | .supplyDebounceEnd t => some t
  | .unknownInstruction t _ _ => some t
  | .identify t _ => some t
  | .read t _ _ => some t
  | .readEndPageWrite t => some t
  | .write t _ _ => some t
  | .writeEnd t => some t
  | .status t _ => some t
  | .latch t => some t
  | .rearm t => some t
  | .run t => some t
  | .stop t => some t
  | .clearFault t => some t
  | .reset t => some t
  | .clearFlags t => some t
  | .setAttentionMask t _ => some t
  | .requestBadreq t _ => some t
  | .send t _ => some t
  | .set t _ => some t
  | .query t _ => some t
  | .pin t _ => some t
  | .unpin t _ => some t
  | .bar t _ => some t
  | .unbar t _ => some t
  | .ownListenWindowOpen t => some t
  | .frameStartIndication t => some t
  | .ownListenFrameEnd t _ => some t
  | .ackStart t => some t
  | .ackSent t => some t
  | .continuingFrameEnd t _ => some t
  | .continuingEmpty t => some t
  | .planFreeze t => some t
  | .burstStart t => some t
  | .dataSent t => some t
  | .awaitingEmpty t => some t
  | .takingFrameEnd t _ => some t
  | .spacingEnd t => some t
  | .ownBeaconInstant t => some t
  | .beaconSent t => some t
  | .ownListenEmpty t => some t
  | .senseReport t _ => some t
  | .exclusionHoldExpiry t _ => some t
  | .refreshListenOpen t _ => some t
  | .refreshListenEnd t _ => some t
  | .censusIntervalExpiry t => some t
  | .listenSegmentStart t => some t
  | .listenSegmentEnd t _ => some t
  | .censusEnd t => some t
  | .discoveryEnd t => some t
  | .resetFrontEndReady t => some t
  | .operationTimeout t => some t
  | .lateResponse t => some t
  | .neighborSweep t => some t
  | .discardDeadlineExpiry t _ => some t
  | .backoffExpiry t _ => some t
  | .reportTimerExpiry t => some t
  | .stopTakesEffect t => some t

/-- The command begins with a complete instruction byte of a port transaction of its own (R166 to R169). -/
def Instr.opensTransaction : Instr → Bool
  | .unknownInstruction .. | .identify .. | .status .. | .latch _ | .rearm _ => true
  | .run _ | .stop _ | .clearFault _ | .reset _ | .clearFlags _ | .setAttentionMask .. => true
  | .read _ start _ => start.isSome
  | .write _ start _ => start.isSome
  | _ => false

end Sys2Proof

namespace Sys2Proof.Machine

/-- A step is safe: it answers a next state. -/
def Safe (s : State) : Prop := ∃ s', step s = .next s'

/-! ## What follow-up work leaves alone

An event raises reports, and the work they call for (scans, reviews, passes, placements, recomputations) is done before
the event is over (assumption log entry 10). `Calm` is what all of it but a scan leaves alone; `Steady` is what a scan
leaves alone too, although it answers requests. -/

/-- The part of the state that review, passes, claim placement and recomputation do not touch. -/
structure Calm where
  now16 : Sixteenth
  engine : EngineState
  stopPending : Bool
  faultLatch : Bool
  strike : Bool
  sched : Sched
  pins : List Addr
  bars : List Addr
  nextSweep : Tick
  trails : List Trail
  recent : List (Addr × Byte)
  flow : Flow
  sequence : Byte
  nextSerial : Nat
  txSequence : Byte
  txEnd : Sixteenth
  txNext : Sixteenth
  backlog : List Box
  taken : List Box
  dataOut : List Byte
  flags : FaultFlags
  attentionMask : Reasons
  settings : Settings
  draws : Nat
  pending : List Instr
deriving DecidableEq, Repr

/-- The calm part of a state. -/
def State.calm (s : State) : Calm :=
  { now16 := s.now16, engine := s.radio.engine, stopPending := s.radio.stopPending, faultLatch := s.radio.faultLatch
    strike := s.radio.strike, sched := s.sched, pins := s.nbr.pins, bars := s.nbr.bars, nextSweep := s.nbr.nextSweep
    trails := s.route.trails, recent := s.store.recent, flow := s.store.flow
    sequence := s.store.sequence, nextSerial := s.store.nextSerial, txSequence := s.planner.txSequence
    txEnd := s.planner.txEnd, txNext := s.planner.txNext, backlog := s.port.backlog, taken := s.port.taken
    dataOut := s.port.dataOut, flags := s.port.flags, attentionMask := s.port.attention.mask
    settings := s.req.settings, draws := s.draws, pending := s.pending }

/-- The part of the state that a backlog scan does not touch either, whatever the requests. -/
structure Steady where
  now16 : Sixteenth
  engine : EngineState
  stopPending : Bool
  faultLatch : Bool
  strike : Bool
  phase : Nat
  beaconExponent : Nat
  beaconChannel : Nat
  mask : Mask
  epoch : Byte
  censusDue : Tick
  long : Option LongListen
  supplyHigh : Bool
  supplyMode : SupplyMode
  debounce : Option DebounceRun
  nextSweep : Tick
  txSequence : Byte
  txEnd : Sixteenth
  txNext : Sixteenth
  dataOut : List Byte
  flags : FaultFlags
  attentionMask : Reasons
  draws : Nat
  pending : List Instr
deriving DecidableEq, Repr

/-- The steady part of a calm part. -/
def Calm.steady (c : Calm) : Steady :=
  { now16 := c.now16, engine := c.engine, stopPending := c.stopPending, faultLatch := c.faultLatch, strike := c.strike
    phase := c.sched.phase, beaconExponent := c.sched.beaconExponent, beaconChannel := c.sched.beaconChannel
    mask := c.sched.mask, epoch := c.sched.epoch, censusDue := c.sched.censusDue, long := c.sched.long
    supplyHigh := c.sched.supplyHigh, supplyMode := c.sched.supplyMode, debounce := c.sched.debounce
    nextSweep := c.nextSweep, txSequence := c.txSequence, txEnd := c.txEnd, txNext := c.txNext, dataOut := c.dataOut
    flags := c.flags, attentionMask := c.attentionMask, draws := c.draws, pending := c.pending }

/-- The steady part of a state. -/
def State.steady (s : State) : Steady := s.calm.steady

/-! ## The own listen that follows, and a neighbor that may be sent to -/

/-- The own-listen claim asked for once the own listen of the beat `after` is over, at `now` (R25): while claims are
placed, that of the first own beat later than `after`, its window not yet open, that is no beacon instant. -/
def State.followingListen (s : State) (now after : Tick) : Option Claim :=
  let l := BitVec.ofNat 32 s.req.settings.halfWindow
  let lo := if 0 ≤ (now + l - (after + 1)).toInt then now + l else after + 1
  if s.radio.engine = .running ∧ s.radio.stopPending = false then
    (s.nextOwnListen lo).map fun t =>
      { kind := .ownListen, start := t - l, stop := some (t + l), channel := s.ownChannel t, owner := 0, instant := t }
  else none

/-- Nothing on the timeline stands against the own-listen claim that follows: no claim but an own listen or a census or
discovery shares a tick with it (R156). -/
def State.followsFree (s : State) (now after : Tick) : Prop :=
  ∀ n, s.followingListen now after = some n →
    ∀ x ∈ s.radio.timeline, x.kind = .ownListen ∨ x.kind.isLong = true ∨ n.overlaps x = false

/-- The timeline with the own-listen claim that follows in place of the one that is over. -/
def State.listenFollows (s : State) (now after : Tick) : List Claim :=
  let others := s.radio.timeline.filter fun c => !(c.kind = .ownListen)
  match s.followingListen now after with
  | some n => insertBy Claim.before n others
  | none => others

/-- `r`, with the schedule `c`, is the one record of `a`, and every question of R79 and R54 about sending to it at its
remote instant `b` is answered yes for every class: it is not barred, LAPSED, stale or held, its beats are not all beacon
instants, and its guard at `b` is within the limit. No pending mask is stored. -/
def State.openTo (s : State) (a : Addr) (r : Neighbor) (c : Schedule) (b : Tick) : Prop :=
  s.nbr.find a = some r ∧ (∀ x ∈ s.nbr.records, x.address = a → x = r) ∧ a ∉ s.nbr.bars ∧ r.schedule = some c ∧
    c.pending = none ∧ r.tracker.state ≠ .lapsed ∧ r.stale = false ∧ r.hold = none ∧ c.exponent < c.beaconExponent ∧
    r.tracker.guardAt b ≤ 16 * c.halfWindow - 16

/-! ## The answer of a rendezvous -/

/-- The ACK that answers a DATA of a rendezvous (R9, R13, R14, R146): its bytes and its start, and the record of the
rendezvous with it (R139). -/
def State.answeredWith (s s' : State) (d : DataFrame) (f : RxFrame) (a : Answer) : Prop :=
  let first := max (-1024) (min 1024 ((f.capture - ofTick s.recv.beat).toInt))
  let v : Rendezvous :=
    match s.recv.record with
    | some v => { v with frames := v.frames + 1, lastAnswer := a.kind, lastMore := d.more }
    | none =>
      { beat := s.recv.beat, firstCapture := f.capture, timingError := first, transmitter := d.transmitter, frames := 1
        lastAnswer := a.kind, lastMore := d.more }
  let k : AckFrame :=
    { kind := a.kind, transmitter := s.req.settings.ownAddress, addressee := d.transmitter, sequence := d.sequence
      timingError := v.timingError, flow := a.flow, grant := a.grant, exponent := a.exponent, epoch := a.epoch }
  s'.recv = { s.recv with
    state := .turning, record := some v
    ack := some { bytes := k.bytes, start := f.capture + BitVec.ofNat 36 (16 * (airtime (14 + d.payload.length) + 6)) } }

/-! ## Frames dropped by STOP -/

/-- The frame came from a box of the host. -/
def FrameRec.isOriginated (f : FrameRec) : Bool :=
  match f.source with
  | .originated _ => true
  | .relayed .. => false

/-- The box of an originated frame that STOP has dropped (R118, R182, R190): out of the TAKEN set, DONE, and its body the
outcome record STOPPED with the kind and the tag as they stood, sequence, hop limit, no neighbor, the attempts, and zeros
after them. Bytes 4 and 5 hold the completion serial. -/
def State.readsStopped (s s' : State) (b : Box) (f : FrameRec) : Prop :=
  b ∉ s'.port.taken ∧ Memory.read s'.port.mem b.val = 0x03 ∧
    ∀ i, i < 256 → i ≠ 4 → i ≠ 5 → Memory.read s'.port.mem (bodyAddr b + i) =
      if i = 0 ∨ i = 2 ∨ i = 3 then Memory.read s.port.mem (bodyAddr b + i)
      else [0, 0x06, 0, 0, 0, 0, f.sequence, BitVec.ofNat 8 f.hopLimit, 0, 0, BitVec.ofNat 8 f.total].getD i 0

/-- STOP has dropped the frames of the transmit queue in their order and then those of the parked list (R118): each
originated one whose box is that of no other reads STOPPED, with the completion serials in the order of the drop, each
originated frame taking one; every other box stands as it did. -/
def State.stopsInOrder (s s' : State) : Prop :=
  let waiting := s.store.queue ++ s.store.parked
  s'.req.serial = s.req.serial + BitVec.ofNat 16 (waiting.countP FrameRec.isOriginated) ∧
    (∀ (before : List FrameRec) (f : FrameRec) (after : List FrameRec) (b : Box), waiting = before ++ f :: after →
      f.source = .originated b → (∀ g ∈ before ++ after, g.source ≠ .originated b) →
      let serial := s.req.serial + BitVec.ofNat 16 (before.countP FrameRec.isOriginated)
      s.readsStopped s' b f ∧ Memory.read s'.port.mem (bodyAddr b + 4) = serial.extractLsb' 0 8 ∧
        Memory.read s'.port.mem (bodyAddr b + 5) = serial.extractLsb' 8 8) ∧
    ∀ b : Box, (∀ g ∈ waiting, g.source ≠ .originated b) →
      (b ∈ s'.port.taken ↔ b ∈ s.port.taken) ∧ Memory.read s'.port.mem b.val = Memory.read s.port.mem b.val ∧
        ∀ i, i < 256 → Memory.read s'.port.mem (bodyAddr b + i) = Memory.read s.port.mem (bodyAddr b + i)

/-! ## Invariants -/

/-- The exchange memory is in its canonical form, and a page held back for the end of a READ has its 128 bytes. -/
def State.memOk (s : State) : Prop := s.port.mem.wf = true ∧ ∀ page ∈ s.port.snapshot, page.length = 128

/-- The recent list holds at most 32 pairs and none twice (R114). -/
def State.recentOk (s : State) : Prop := s.store.recent.length ≤ 32 ∧ s.store.recent.Nodup

/-- The pin list and the bar list hold at most 8 addresses each and none twice (R71). -/
def State.listsOk (s : State) : Prop :=
  s.nbr.pins.length ≤ 8 ∧ s.nbr.pins.Nodup ∧ s.nbr.bars.length ≤ 8 ∧ s.nbr.bars.Nodup

/-- A box index is in at most one of the backlog, the lent pool and the TAKEN set, and in none of them twice (R171). -/
def State.boxesOk (s : State) : Prop := (s.port.backlog ++ s.port.lent ++ s.port.taken).Nodup

/-- An armed attention unit shows no unmasked reason: ATTN is asserted as soon as one stands (R177, R178). -/
def State.attnOk (s : State) : Prop := s.port.attention.armed = true → s.port.attention.unmasked = false

/-- The notice queue holds at most 8 notices (R189). -/
def State.noticesOk (s : State) : Prop := s.req.notices.length ≤ 8

/-- The table has 48 places, and no two records share an address (R63). -/
def State.recordsOk (s : State) : Prop := s.nbr.places.length = 48 ∧ (s.nbr.records.map (·.address)).Nodup

/-- The trail table holds at most 512 trails and at most one of an origin (R94). The ascending order of origin in which they
stand is the model's own representation (assumption log entry 24): R94 keeps no order, and R185 orders only the answer to a
QUERY. -/
def State.trailsOk (s : State) : Prop :=
  s.route.trails.length ≤ 512 ∧ s.route.trails.Pairwise fun a b => a.origin.toNat < b.origin.toNat

/-- How many claims on the timeline are of a kind that a test names. -/
def State.claimCount (s : State) (p : ClaimKind → Bool) : Nat := (s.radio.timeline.filter fun c => p c.kind).length

/-- The claims that the timeline may hold at once (R155): an own beacon, an own listen, a transmission, four refresh
listens, a census or discovery. -/
def State.claimsOk (s : State) : Prop :=
  s.claimCount (· = .ownBeacon) ≤ 1 ∧ s.claimCount (· = .ownListen) ≤ 1 ∧ s.claimCount ClaimKind.isTransmission ≤ 1 ∧
    s.claimCount (· = .refreshListen) ≤ 4 ∧ s.claimCount ClaimKind.isLong ≤ 1

/-- The cells of the store (R101): at most 64 in the four lists, at most 8 of them staged (R112), none twice, each with a
serial already given out; the transmit queue and the parked list stand in the order of R105. -/
def State.cellsOk (s : State) : Prop :=
  let cells := s.store.queue ++ s.store.parked ++ s.store.staging ++ s.store.burst
  let inOrder (l : List FrameRec) : Prop := l.Pairwise fun f g =>
    f.cls.code < g.cls.code ∨ (f.cls = g.cls ∧ f.serial < g.serial)
  cells.length ≤ 64 ∧ s.store.staging.length ≤ 8 ∧ (cells.map (·.serial)).Nodup ∧
    (∀ f ∈ cells, f.serial < s.store.nextSerial) ∧ inOrder s.store.queue ∧ inOrder s.store.parked

/-! ## Notices -/

/-- The event raises one notice and no other, before it completes or fills any box (R188, R189): nothing where its code is
disabled; otherwise the record in the oldest lent box, which is FILLED, or the tail of the queue, the oldest of 8 giving
way. -/
def State.raises (s s' : State) (e : NoticeEvent) : Prop :=
  let n : Notice := { event := e, tick := s'.now }
  let enabled := s.req.settings.noticeMask.getLsbD (e.code - 1)
  (enabled = false → s'.req.notices = s.req.notices ∧ s'.port.lent = s.port.lent) ∧
    (enabled = true →
      (s.port.lent = [] → s'.port.lent = [] ∧
        (s.req.notices.length < 8 → s'.req.notices = s.req.notices ++ [n]) ∧
        (s.req.notices.length = 8 → s'.req.notices = s.req.notices.tail ++ [n])) ∧
      ∀ b bs, s.port.lent = b :: bs →
        s'.port.lent = bs.filter (· ≠ b) ∧ s'.req.notices = s.req.notices ∧
        (s.memOk → Memory.read s'.port.mem b.val = 0x05 ∧ ∀ i, i < 256 → Memory.read s'.port.mem (bodyAddr b + i) =
          ([0x81, BitVec.ofNat 8 e.code] ++ leBytes 2 s.req.serial.toNat ++ [if s.req.overflow then 1 else 0, 0]
            ++ leBytes 4 n.tick.toNat ++ e.fields).getD i 0))

end Sys2Proof.Machine
end

