-- ==== Sys2Proof/Certificates/Slice0/Obligations.lean ====
section
/-! DEFINITION. The statements for the provers. `s.enter t` is `s` with the clock at `t` and no report outstanding: all
that a command with nothing to do leaves behind. A host instruction is stated on a port without an open transaction;
`NewInstructionEndsTransaction` says what it does on one. An exact next state names `dataOut := []` where the instruction
opens a transaction and drives nothing yet: that is the model's bookkeeping (assumption log entry 9), no claim about the
level of a pin. -/

open Sys2Proof Sys2Proof.Machine

/-! ## The block and its queue -/

/-- The model's queue (assumption log entries 1 and 35): a step runs the command at the front on the rest, and idles on an
empty queue. -/
def Obligations.StepRunsFrontCommand : Prop :=
  (∀ (c : Instr) (rest : List Instr) (s : State), s.pending = c :: rest → step s = exec c { s with pending := rest }) ∧
    ∀ s : State, s.pending = [] → step s = .next s

/-- Every command answers a next state, in which the model's own bookkeeping of follow-up work is empty (`work = {}`, the
model's choice, assumption log entry 10) and the queue of waiting commands is as it was (its choice too, entries 35 and
46); the local clock stands at the instant the command carries (entry 2), or at 0 after the reset control command
(R174). -/
def Obligations.EveryCommandAnswers : Prop :=
  ∀ (c : Instr) (s : State), ∃ s', exec c s = .next s' ∧ s'.pending = s.pending ∧ s'.work = {} ∧
    ∀ t, c.time = some t → s'.now16 = if c = .reset t then 0 else t

/-! ## Reset -/

/-- The state after power-on, with every setting at its default (R1, R22, R41, R63, R81, R101, R120, R139, R155, R162, R174, R177, R184, R190). -/
def Obligations.ResetStateValues : Prop :=
  State.reset.now16 = 0 ∧ State.reset.radio.engine = .halted ∧ State.reset.radio.stopPending = false ∧
  State.reset.radio.faultLatch = false ∧ State.reset.radio.strike = false ∧ State.reset.radio.timeline = [] ∧
  (State.reset.radio.op.map fun o => (o.kind, o.purpose, o.due)) = some (.resetFrontEnd, .resetFrontEnd, 0) ∧
  State.reset.sched.phase = 0 ∧ State.reset.sched.beaconExponent = 17 ∧ State.reset.sched.beaconChannel = 0 ∧
  State.reset.sched.mask = 0xFFFF ∧ State.reset.sched.epoch = 0 ∧ State.reset.sched.pendingMask = none ∧
  State.reset.sched.batches.map (·.channel) = List.range' 1 15 ∧
  (∀ b ∈ State.reset.sched.batches, b.countdown = 16 ∧ b.tally = 0) ∧ State.reset.sched.exclusions = [] ∧
  State.reset.sched.proposals = [] ∧ State.reset.sched.censusDue.toNat = 600 * 32768 ∧ State.reset.sched.long = none ∧
  State.reset.sched.supplyMode = .normal ∧ State.reset.nbr.places = List.replicate 48 none ∧
  State.reset.nbr.pins = [] ∧ State.reset.nbr.bars = [] ∧ State.reset.route.parents = [] ∧
  State.reset.route.ownU = 4095 ∧ State.reset.route.trails = [] ∧ State.reset.store.free = 64 ∧
  State.reset.store.recent = [] ∧ State.reset.store.flow = .go ∧ State.reset.store.sequence = 0 ∧
  State.reset.planner.state = .none ∧ State.reset.planner.plan = none ∧ State.reset.planner.marks = [] ∧
  State.reset.planner.tx = .idle ∧ State.reset.recv.state = .idle ∧ State.reset.recv.record = none ∧
  (∀ a, Memory.read State.reset.port.mem a = 0) ∧ State.reset.port.backlog = [] ∧ State.reset.port.lent = [] ∧
  State.reset.port.taken = [] ∧ State.reset.port.latchCount = 0 ∧ State.reset.port.flags = {} ∧
  State.reset.port.attention.armed = true ∧ State.reset.port.attention.reasons = {} ∧
  State.reset.port.attention.mask = ⟨true, true, true, true⟩ ∧ State.reset.port.attention.count = 0 ∧
  State.reset.port.attention.timer = .stopped ∧ (∀ n ∈ State.reset.port.counters.list, n = 0) ∧
  State.reset.port.attention.alarmMark = false ∧ State.reset.port.attention.faultMark = false ∧
  State.reset.req.settings =
    { ownAddress := 0, gateway := false, phase := .auto, beatExponent := 12, halfWindow := 32, beaconExponent := 17
      beaconChannel := 0, channelMask := 0xFFFF, survey := true, busyThreshold := -85, exclusionHold := 900
      censusInterval := 600, censusSpan := 8, discoverySpan := 32, supplyDebounce := 2, slopeLimit := 1678
      fastAnchorShift := 1, fastDriftShift := 1, slowAnchorShift := 3, slowDriftShift := 3, lockThreshold := 16
      lockCount := 6, holdoverEntry := 15, holdoverLimit := 600, admissionFloor := -95, probationTime := 120
      evictionAge := 1800, holdLifetime := 2, hopPenalty := 8, hysteresis := 24, unsteady := 4, trailLifetime := 3600
      parkAlarm := 2, parkControl := 10, parkBulk := 30, quickDiscard := false, holdMark := 12, goMark := 20
      burstLimit := 4, perHopLimit := 3, totalLimit := 8, refreshAge := 10, triggerLevel := 4, reportTimeout := 50
      noticeMask := 0x31, defaultHopLimit := 15 } ∧
  State.reset.req.notices = [] ∧ State.reset.req.overflow = false ∧ State.reset.req.serial = 0

/-- POWER_ON and RESETN bring every block back to its reset state and zero the exchange memory; the SUPPLY input keeps its
level, and one that is low starts a debounce run of 2 s at tick 0 (R1, R39, R174). That the commands waiting and the
count of random draws stay is the model's choice (assumption log entry 46), and so are the fields that a reset leaves unread
(entry 39). -/
def Obligations.PowerOnAndResetn : Prop :=
  ∀ (high : Bool) (s : State),
    exec (.powerOn high) s = .next
      { State.reset with
        sched := { State.reset.sched with
          supplyHigh := high
          debounce := if high then none else some { high := false, start := 0, due := 65536 } }
        draws := s.draws
        pending := s.pending } ∧
    exec .resetn s = exec (.powerOn s.sched.supplyHigh) s

/-! ## Invariants -/

/-- The invariants below hold after power-on. -/
def Obligations.InvariantsAtReset : Prop :=
  State.reset.memOk ∧ State.reset.recentOk ∧ State.reset.listsOk ∧ State.reset.boxesOk ∧ State.reset.noticesOk ∧
    State.reset.attnOk ∧ State.reset.recordsOk ∧ State.reset.trailsOk ∧ State.reset.claimsOk ∧ State.reset.cellsOk

/-- Every step keeps the exchange memory in its canonical form. -/
def Obligations.StepKeepsMemoryForm : Prop := ∀ s s' : State, s.memOk → step s = .next s' → s'.memOk

/-- Every step keeps the recent list within 32 pairs (R114), the pin list and the bar list within 8 addresses each (R71),
none of them twice, and the notice queue within 8 notices (R189); the neighbor table at 48 places with no address twice
(R63); the trail table within 512 trails, none of an origin twice (R94); and the timeline within one claim for the own
beacon, the own listen, the plan and the census or discovery each and four refresh listens, 8 in all (R155). That the trails
also stand in ascending order of origin is the model's own representation and its choice (assumption log entry 24): R94
keeps no order, and only the answer to a QUERY is sorted. -/
def Obligations.StepKeepsListBounds : Prop :=
  ∀ s s' : State, step s = .next s' →
    (s.recentOk → s'.recentOk) ∧ (s.listsOk → s'.listsOk) ∧ (s.noticesOk → s'.noticesOk) ∧
    (s.recordsOk → s'.recordsOk) ∧ (s.trailsOk → s'.trailsOk) ∧
    (s.claimsOk → s'.claimsOk ∧ s'.radio.timeline.length ≤ 8)

/-- Every step keeps a box in at most one of the backlog, the lent pool and the TAKEN set, and in none twice (R171); and a
cell in at most one of the four lists of the Frame Store, at most 64 of them with at most 8 staged, each serial of one
already given out, and the transmit queue and the parked list in the order of class and admission serial (R101, R105,
R112). -/
def Obligations.StepKeepsBoxesApart : Prop :=
  ∀ s s' : State, step s = .next s' → (s.boxesOk → s'.boxesOk) ∧ (s.cellsOk → s'.cellsOk)

/-- After every step an armed attention unit shows no unmasked reason: ATTN is asserted as soon as one stands
(R177, R178). -/
def Obligations.StepKeepsAttention : Prop := ∀ s s' : State, s.attnOk → step s = .next s' → s'.attnOk

/-! ## Port instructions -/

/-- A new instruction on an open transaction does what it does after that transaction's own end (R166; assumption log
entry 7). -/
def Obligations.NewInstructionEndsTransaction : Prop :=
  ∀ (c : Instr) (t : Sixteenth) (s s1 : State), c.opensTransaction = true → c.time = some t →
    ((∃ a, s.port.txn = some (.reading a)) → exec (.readEndPageWrite t) s = .next s1 → exec c s = exec c s1) ∧
    ((∃ a boxes maps, s.port.txn = some (.writing a boxes maps)) → exec (.writeEnd t) s = .next s1 →
      exec c s = exec c s1)

/-- IDENTIFY drives vendor, part and revision, STATUS the three status bytes, and then both drive 0; a byte that is no
instruction is answered with zeros for the whole length of its transaction, its own byte included; none of them changes
anything else (R166, R168). -/
def Obligations.IdentifyStatusUnknown : Prop :=
  ∀ (t : Sixteenth) (code : Byte) (n : Nat) (s : State), s.port.txn = none →
    exec (.identify t n) s = .next { s.enter t with port := { s.port with dataOut := padTo n [0x7A, 0xD8, 0x01] } } ∧
    exec (.unknownInstruction t code n) s
      = .next { s.enter t with port := { s.port with dataOut := List.replicate (1 + n) 0 } } ∧
    ∃ engine reasons faults : Byte,
      exec (.status t n) s
        = .next { s.enter t with port := { s.port with dataOut := padTo n [engine, reasons, faults] } } ∧
      engine.toNat = s.radio.engine.code + 4 * s.port.attention.armed.toNat + 8 * s.radio.stopPending.toNat
        + 16 * s.radio.faultLatch.toNat ∧
      reasons.toNat = s.port.attention.reasons.trigger.toNat + 2 * s.port.attention.reasons.timeout.toNat
        + 4 * s.port.attention.reasons.urgent.toNat + 8 * s.port.attention.reasons.fault.toNat ∧
      faults.toNat = s.port.flags.radioFault.toNat + 2 * s.port.flags.config.toNat + 4 * s.port.flags.mapClash.toNat
        + 8 * s.port.flags.mapFault.toNat + 16 * s.port.flags.bodyClash.toNat

/-- READ drives 0 during its instruction and address bytes and then clocks out the bytes the memory holds, from the address given without its bit 15, wrapping from 0x7FFF to 0x0000,
and goes on from where it stood; its end closes the transaction and writes a page held back while it was open; neither
changes anything else (R167, R175). -/
def Obligations.ReadTransaction : Prop :=
  (∀ (t : Sixteenth) (n : Nat) (s : State),
     (∀ a : BitVec 16, s.port.txn = none →
       ∃ bs : List Byte, bs.length = n ∧
         (∀ i, i < n → bs[i]? = some (Memory.read s.port.mem ((a.toNat + i) % 0x8000))) ∧
         exec (.read t (some a) n) s = .next
           { s.enter t with
             port := { s.port with dataOut := [0, 0, 0] ++ bs, txn := some (.reading (BitVec.ofNat 15 (a.toNat + n))) } }) ∧
     (∀ a : BitVec 15, s.port.txn = some (.reading a) →
       ∃ bs : List Byte, bs.length = n ∧
         (∀ i, i < n → bs[i]? = some (Memory.read s.port.mem ((a.toNat + i) % 0x8000))) ∧
         exec (.read t none n) s = .next
           { s.enter t with
             port := { s.port with
               dataOut := s.port.dataOut ++ bs, txn := some (.reading (BitVec.ofNat 15 (a.toNat + n))) } })) ∧
  (∀ (t : Sixteenth) (a : BitVec 15) (s : State), s.memOk → s.port.txn = some (.reading a) →
     ∃ m : Memory,
       exec (.readEndPageWrite t) s
         = .next { s.enter t with port := { s.port with txn := none, snapshot := none, mem := m } } ∧
       ∀ x, Memory.read m x =
         match s.port.snapshot with
         | some page => if 0x80 ≤ x ∧ x < 0x100 then page.getD (x - 0x80) 0 else Memory.read s.port.mem x
         | none => Memory.read s.port.mem x)

/-- One complete byte of a WRITE, by the region of its address (R167, R170; `dataOut` is bookkeeping, assumption log entry
9): a map byte is stored and recorded as written,
0x007F and the status page ignore it, a body byte is stored in a host-owned box and dropped with BODY_CLASH in an
engine-owned one. A WRITE opens its transaction at the address given without its bit 15 and handles its bytes one by one. -/
def Obligations.WriteTransaction : Prop :=
  (∀ (t : Sixteenth) (v : Byte) (n : BitVec 15) (boxes maps : List Box) (s : State),
     s.port.txn = some (.writing n boxes maps) →
     (∀ b : Box, n.toNat = b.val →
       exec (.write t none [v]) s = .next
         { s.enter t with
           port := { s.port with
             mem := Memory.write s.port.mem n.toNat v
             txn := some (.writing (n + 1) (if b ∈ boxes then boxes else boxes ++ [b])
               (if b ∈ maps then maps else maps ++ [b])) } }) ∧
     (0x7F ≤ n.toNat → n.toNat ≤ 0xFF →
       exec (.write t none [v]) s
         = .next { s.enter t with port := { s.port with txn := some (.writing (n + 1) boxes maps) } }) ∧
     (∀ b : Box, 0x100 + 256 * b.val ≤ n.toNat → n.toNat ≤ 0x1FF + 256 * b.val →
       b ∈ s.port.taken ∨ b ∈ s.port.lent →
       exec (.write t none [v]) s = .next
         { s.enter t with
           port := { s.port with
             txn := some (.writing (n + 1) boxes maps), flags := { s.port.flags with bodyClash := true } } }) ∧
     (∀ b : Box, 0x100 + 256 * b.val ≤ n.toNat → n.toNat ≤ 0x1FF + 256 * b.val →
       b ∉ s.port.taken → b ∉ s.port.lent →
       exec (.write t none [v]) s = .next
         { s.enter t with
           port := { s.port with
             mem := Memory.write s.port.mem n.toNat v
             txn := some (.writing (n + 1) (if b ∈ boxes then boxes else boxes ++ [b]) maps) } })) ∧
  (∀ (t : Sixteenth) (s : State),
     (∀ (a : BitVec 16) (data : List Byte), s.port.txn = none →
       exec (.write t (some a) data) s = exec (.write t none data)
         { s with port := { s.port with txn := some (.writing (BitVec.ofNat 15 a.toNat) [] []), dataOut := [] } }) ∧
     exec (.write t none []) s = .next (s.enter t) ∧
     ∀ (v : Byte) (vs : List Byte), ∃ s1,
       exec (.write t none [v]) s = .next s1 ∧ exec (.write t none (v :: vs)) s = exec (.write t none vs) s1)

/-- WRITE_END (R171, R172, R173, R179). The written map bytes are examined in ascending order, with what each holds: an
engine-owned box's byte is restored with MAP_CLASH; POST keeps the box's place in the backlog or appends it; LENT
appends the box to the lent pool; EMPTY and any other value take the box out of the backlog, the latter with MAP_FAULT.
The scan follows, which `State.finish` runs where boxes wait; it does with a POST what the request's own row does,
stated here for requests that call for no work after them. A lent box is served at once: from the head of the staging
list with a delivery record (R113, R187; the signal in it is the frame's own level, entry 59), or from the head of the
notice queue (R189). -/
def Obligations.WriteEndExaminesMap : Prop :=
  ∀ (t : Sixteenth) (n : BitVec 15) (boxes maps : List Box) (s : State), s.port.txn = some (.writing n boxes maps) →
    let value (b : Box) : Byte := Memory.read s.port.mem b.val
    let owned (b : Box) : Bool := s.port.taken.contains b || s.port.lent.contains b
    let all := (List.finRange 127).filter fun b => maps.contains b
    let host := all.filter fun b => !owned b
    let leaves := s.port.backlog.filter fun b => !(host.contains b && value b != 1)
    let closed (p : Port) : State := { s.enter t with port := { p with txn := none } }
    (s.store.staging = [] ∧ s.req.notices = [] ∨ (∀ b ∈ host, value b ≠ 4) →
      let p : Port :=
        { s.port with
          mem := (all.filter owned).foldl
            (fun m b => Memory.write m b.val (if s.port.taken.contains b then 0x02 else 0x04)) s.port.mem
          backlog := leaves ++ host.filter fun b => value b == 1 && !s.port.backlog.contains b
          lent := s.port.lent ++ host.filter fun b => value b == 4
          flags := { s.port.flags with
            mapClash := s.port.flags.mapClash || all.any owned
            mapFault := s.port.flags.mapFault || host.any fun b => value b != 0 && value b != 1 && value b != 4 } }
      exec (.writeEnd t) s
        = .next (if p.backlog = [] then closed p else State.finish { closed p with work := { scan := true } })) ∧
    (∀ b : Box, all = [b] → owned b = false → (∀ x ∈ s.port.backlog, x = b) →
      (value b = 1 →
        let waits : State := closed { s.port with backlog := [b] }
        let kind := requestKind (s.port.body b)
        s.port.backlog.length ≤ 1 →
        (kind = none → exec (.writeEnd t) s = exec (.requestBadreq t b) waits) ∧
        (kind = some .query → exec (.writeEnd t) s = exec (.query t b) waits) ∧
        (kind = some .pin → exec (.writeEnd t) s = exec (.pin t b) waits) ∧
        (kind = some .unpin → exec (.writeEnd t) s = exec (.unpin t b) waits) ∧
        (kind = some .unbar → exec (.writeEnd t) s = exec (.unbar t b) waits) ∧
        (kind = some .bar → s.nbr.find (word16 (s.port.body b) 6) = none →
          exec (.writeEnd t) s = exec (.bar t b) waits) ∧
        (kind = some .send → s.radio.engine ≠ .running → exec (.writeEnd t) s = exec (.send t b) waits)) ∧
      (value b = 4 → s.port.lent = [] →
        let lends : State := closed { s.port with backlog := [], lent := [b] }
        (∀ f fs hop signal arrival, s.store.staging = f :: fs → f.source = .relayed hop signal arrival →
          let filled := lends.fillBox b
            ([0x80, (match f.cls with | .alarm => 0 | .control => 1 | .bulk => 2)] ++ leBytes 2 s.req.serial.toNat
              ++ leBytes 2 f.origin.toNat ++ [f.sequence, BitVec.ofNat 8 f.hopLimit] ++ leBytes 2 f.destination.toNat
              ++ leBytes 2 hop.toNat ++ [signal, BitVec.ofNat 8 f.payload.length] ++ leBytes 4 arrival.toNat ++ f.payload)
            (f.cls = .alarm)
          let others (l : List FrameRec) : List FrameRec := l.filter fun g => g.serial ≠ f.serial
          let cells : Store := { s.store with
            queue := others s.store.queue, parked := others s.store.parked, staging := others s.store.staging
            burst := others s.store.burst }
          let flow : Flow := match s.store.flow with
            | .go => if cells.free ≤ s.req.settings.holdMark then .hold else .go
            | .hold => if s.req.settings.goMark ≤ cells.free then .go else .hold
          exec (.writeEnd t) s = .next
            { filled with
              store := { cells with flow := flow }
              port := { filled.port with counters := { filled.port.counters with
                delivered := min 65535 (filled.port.counters.delivered + 1) } } }) ∧
        (∀ m ms, s.store.staging = [] → s.req.notices = m :: ms →
          exec (.writeEnd t) s = .next
            (State.fillBox { lends with req := { s.req with notices := ms, overflow := false } } b
              ([0x81, BitVec.ofNat 8 m.event.code] ++ leBytes 2 s.req.serial.toNat
                ++ [if s.req.overflow then 1 else 0, 0] ++ leBytes 4 m.tick.toNat ++ m.event.fields) false))))

/-! ## The status page -/

/-- LATCH raises the latch count by 1 and writes the page from one snapshot, leaving every other byte of the memory and the
rest of the state alone (R168, R175). The empty `dataOut` is the model's bookkeeping (assumption log entry 9). -/
def Obligations.LatchWritesPage : Prop :=
  ∀ (t : Sixteenth) (s : State), s.memOk → s.port.txn = none →
    ∃ m : Memory,
      exec (.latch t) s = .next
        { s.enter t with port := { s.port with dataOut := [], latchCount := s.port.latchCount + 1, mem := m } } ∧
      ∀ x, Memory.read m x =
        if 0x80 ≤ x ∧ x < 0x100 then ((s.enter t).pageBytes (s.port.latchCount + 1)).getD (x - 0x80) 0
        else Memory.read s.port.mem x

/-- The layout of the status page (R175; 12_formats.md, section 12.3). -/
def Obligations.StatusPageLayout : Prop :=
  ∀ (s : State) (latch : BitVec 16),
    let p := s.pageBytes latch
    p.length = 128 ∧ leAt p 0 2 = latch.toNat ∧ leAt p 2 4 = s.now.toNat ∧ leAt p 6 1 = s.radio.engine.code ∧
    leAt p 7 1 = s.radio.stopPending.toNat + 2 * s.radio.faultLatch.toNat ∧
    leAt p 8 2 = s.req.settings.ownAddress.toNat ∧ leAt p 10 1 = s.req.settings.gateway.toNat ∧ leAt p 11 1 = 0 ∧
    leAt p 12 2 = s.route.ownU % 65536 ∧
    (∀ i, i < 3 → leAt p (14 + 2 * i) 2 = ((s.route.parents[i]?.map fun q => q.address.toNat).getD 0)) ∧
    leAt p 20 1 = s.exponentInUse % 256 ∧ leAt p 21 1 = s.sched.phase % 256 ∧
    leAt p 22 1 = (if s.sched.supplyMode = .normal then 0 else 1) ∧ leAt p 23 1 = s.sched.epoch.toNat ∧
    leAt p 24 2 = s.sched.mask.toNat ∧ leAt p 26 1 = s.store.free % 256 ∧
    leAt p 27 1 = (s.store.queue.filter fun f => f.cls = .alarm).length % 256 ∧
    leAt p 28 1 = (s.store.queue.filter fun f => f.cls = .control).length % 256 ∧
    leAt p 29 1 = (s.store.queue.filter fun f => f.cls = .bulk).length % 256 ∧
    leAt p 30 1 = s.store.parked.length % 256 ∧ leAt p 31 1 = s.store.staging.length % 256 ∧
    leAt p 32 1 = s.port.backlog.length % 256 ∧ leAt p 33 1 = s.port.lent.length % 256 ∧
    leAt p 34 1 = (s.nbr.records.filter fun r => !r.active).length % 256 ∧
    leAt p 35 1 = (s.nbr.records.filter fun r => r.active).length % 256 ∧
    leAt p 36 2 = s.route.trails.length % 65536 ∧ leAt p 38 2 = 0 ∧
    (∀ i n, [s.port.counters.relayed, s.port.counters.delivered, s.port.counters.originatedSent,
        s.port.counters.refusalsSent, s.port.counters.hopLimit, s.port.counters.noroute, s.port.counters.exhausted,
        s.port.counters.discarded, s.port.counters.stopped, s.port.counters.duplicates, s.port.counters.badChecks,
        s.port.counters.missedBeats, s.port.counters.admissionRefusals, s.port.counters.noticesLost][i]? = some n →
      leAt p (40 + 2 * i) 2 = n % 65536) ∧
    ∀ i, 68 ≤ i → p.getD i 0 = 0

/-! ## The attention unit -/

/-- REARM clears and retests the reasons whether the unit was armed or not, and a change of the mask takes effect at once;
either asserts ATTN again when an unmasked reason stands on an armed unit (R178). The empty `dataOut` is the model's
bookkeeping (assumption log entry 9). -/
def Obligations.RearmAndMaskChange : Prop :=
  ∀ (t : Sixteenth) (m : BitVec 4) (s : State), s.port.txn = none →
    let a := s.port.attention
    let base (a : Attention) : State := { s.enter t with port := { s.port with dataOut := [], attention := a } }
    let asserted (a : Attention) : State :=
      (base { a with
        armed := false, count := 0, timer := .stopped
        alarmMark := a.alarmMark && !a.reasons.urgent, faultMark := a.faultMark && !a.reasons.fault }).latchPage
    let shows (a : Attention) : Bool :=
      (a.reasons.trigger && a.mask.trigger) || (a.reasons.timeout && a.mask.timeout)
        || (a.reasons.urgent && a.mask.urgent) || (a.reasons.fault && a.mask.fault)
    let rearmed : Attention :=
      { a with
        armed := true
        reasons :=
          { trigger := decide (s.req.settings.triggerLevel ≤ a.count)
            timeout := decide (0 < a.count ∧ a.timer = .expired)
            urgent := a.alarmMark
            fault := a.faultMark } }
    let masked : Attention := { a with mask := ⟨m.getLsbD 0, m.getLsbD 1, m.getLsbD 2, m.getLsbD 3⟩ }
    exec (.rearm t) s = .next (if shows rearmed then asserted rearmed else base rearmed) ∧
    exec (.setAttentionMask t m) s = .next (if masked.armed && shows masked then asserted masked else base masked)

/-- CLEAR_FLAGS clears the five fault flags together and nothing else; the radio fault latch stays as it is (R176). The
empty `dataOut` is the model's bookkeeping (assumption log entry 9). -/
def Obligations.ClearFlagsClearsAll : Prop :=
  ∀ (t : Sixteenth) (s : State), s.port.txn = none →
    exec (.clearFlags t) s
      = .next { s.enter t with port := { s.port with dataOut := [], flags := ⟨false, false, false, false, false⟩ } }

/-- What one completion does to the attention unit: the count, the timer, TRIGGER, and for an ALARM delivery URGENT and
the alarm mark; and REPORT_TIMER_EXPIRY: a running timer that has reached its expiry becomes expired and sets TIMEOUT.
After either an armed unit with an unmasked reason set asserts ATTN and latches the page (R177). An event that is not
due only moves the clock (the model's choice, assumption log entry 2). -/
def Obligations.AttentionCountsAndTimes : Prop :=
  (∀ (alarm : Bool) (s : State),
     let a := s.port.attention
     let counted : Attention :=
       { a with
         count := min 255 (a.count + 1)
         timer := if a.timer = .stopped
           then .running (s.now + BitVec.ofNat 32 (s.req.settings.reportTimeout * 32768 / 1000)) else a.timer
         reasons := { a.reasons with
           trigger := a.reasons.trigger || decide (s.req.settings.triggerLevel ≤ min 255 (a.count + 1))
           urgent := a.reasons.urgent || alarm }
         alarmMark := a.alarmMark || alarm }
     let base (a : Attention) : State := { s with port := { s.port with attention := a } }
     s.completion alarm =
       if counted.armed ∧ counted.unmasked then
         (base { counted with
           armed := false, count := 0, timer := .stopped
           alarmMark := counted.alarmMark && !counted.reasons.urgent
           faultMark := counted.faultMark && !counted.reasons.fault }).latchPage
       else base counted) ∧
  (∀ (t : Sixteenth) (s : State),
     let a := s.port.attention
     let late : Attention := { a with timer := .expired, reasons := { a.reasons with timeout := true } }
     let base (a : Attention) : State := { s.enter t with port := { s.port with attention := a } }
     (∀ e, a.timer = .running e → 0 ≤ (tickOf t - e).toInt →
       exec (.reportTimerExpiry t) s = .next
         (if late.armed ∧ late.unmasked then
           (base { late with
             armed := false, count := 0, timer := .stopped
             alarmMark := late.alarmMark && !late.reasons.urgent
             faultMark := late.faultMark && !late.reasons.fault }).latchPage
         else base late)) ∧
     ((∀ e, a.timer = .running e → (tickOf t - e).toInt < 0) → exec (.reportTimerExpiry t) s = .next (s.enter t)))

/-! ## Control commands -/

/-- RUN, row by row (R163): ignored outside HALTED; refused with CONFIG without an own address; refused while the latch is
held; otherwise the schedule is fixed under R23, the mask being reset when beacon channel or exponent change, and the
discovery begins. A reset of the mask drops the pending mask, the exclusions and the proposals, starts every batch afresh on
the new data channels and raises the MASK notice where its code is enabled; with both unchanged all of these carry over.
With no box waiting, neighbor table, parents, trails and store carry over. The empty `dataOut` is the model's bookkeeping
(assumption log entry 9). -/
def Obligations.RunCommandRows : Prop :=
  ∀ (t : Sixteenth) (s : State), s.port.txn = none →
    let idle : Host.Outcome State Fault Refusal := .next { s.enter t with port := { s.port with dataOut := [] } }
    let st := s.req.settings
    let changed := st.beaconChannel ≠ s.sched.beaconChannel ∨ st.beaconExponent ≠ s.sched.beaconExponent
    (s.radio.engine ≠ .halted → exec (.run t) s = idle) ∧
    (s.radio.engine = .halted → st.ownAddress = 0 →
      exec (.run t) s = .next { s.enter t with
        port := { s.port with dataOut := [], flags := { s.port.flags with config := true } } }) ∧
    (s.radio.engine = .halted → st.ownAddress ≠ 0 → s.radio.faultLatch = true → exec (.run t) s = idle) ∧
    (s.radio.engine = .halted → st.ownAddress ≠ 0 → s.radio.faultLatch = false →
      ∃ s', exec (.run t) s = .next s' ∧ s'.now16 = t ∧ s'.radio.engine = .discovery ∧ s'.radio.faultLatch = false ∧
        s'.radio.stopPending = s.radio.stopPending ∧ s'.radio.strike = s.radio.strike ∧
        s'.sched.phase = (match st.phase with
          | .units u => u
          | .auto => st.ownAddress.toNat % 2 ^ (st.beatExponent - 9)) ∧
        s'.sched.beaconExponent = st.beaconExponent ∧ s'.sched.beaconChannel = st.beaconChannel ∧
        (changed → s'.sched.mask = st.channelMask ∧ s'.sched.epoch = s.sched.epoch + 1) ∧
        (¬changed → s'.sched.mask = s.sched.mask ∧ s'.sched.epoch = s.sched.epoch) ∧
        s'.sched.long = some { discovery := true, span := st.discoverySpan * 32768, counted := 0, waiting := false } ∧
        s'.sched.supplyMode = s.sched.supplyMode ∧ s'.port.flags = s.port.flags ∧ s'.pending = s.pending ∧
        (s.port.backlog = [] →
          s'.nbr = s.nbr ∧ s'.route = s.route ∧ s'.store = s.store ∧ s'.planner = s.planner ∧
          s'.req.settings = st ∧
          (changed →
            s'.sched.pendingMask = none ∧ s'.sched.exclusions = [] ∧ s'.sched.proposals = [] ∧
            s'.sched.batches = ((List.range 16).filter fun x => st.channelMask.getLsbD x && x != st.beaconChannel).map
              (fun x => { channel := x, countdown := 16, tally := 0 }) ∧
            (st.noticeMask.getLsbD 3 = false → s'.req.notices = s.req.notices ∧ s'.port.lent = s.port.lent) ∧
            (st.noticeMask.getLsbD 3 = true →
              (s.port.lent = [] → s.req.notices.length < 8 → s'.req.notices = s.req.notices ++
                [{ event := .mask st.channelMask (s.sched.epoch + 1), tick := tickOf t }]) ∧
              ∀ b bs, s.port.lent = b :: bs → s.memOk →
                s'.port.lent = bs.filter (· ≠ b) ∧ Memory.read s'.port.mem b.val = 0x05 ∧
                Memory.read s'.port.mem (bodyAddr b) = 0x81 ∧ Memory.read s'.port.mem (bodyAddr b + 1) = 4)) ∧
          (¬changed →
            s'.sched.pendingMask = s.sched.pendingMask ∧ s'.sched.exclusions = s.sched.exclusions ∧
            s'.sched.proposals = s.sched.proposals ∧ s'.sched.batches = s.sched.batches ∧
            s'.req.notices = s.req.notices ∧ s'.port.lent = s.port.lent) ∧
          (∃ c ∈ s'.radio.timeline, c.kind = .discovery ∧ c.start = tickOf t ∧ c.channel = st.beaconChannel)))

/-- STOP is ignored in HALTED and while a stop is pending. With an exchange in progress it becomes pending: an OPEN or
FROZEN plan is dropped and every claim withdrawn that does not hold the radio (a refresh claim kept may be marked as
overtaken, R161). Otherwise it takes effect at once: HALTED, no stop pending, no census or discovery, no plan, an empty
timeline, no queued or parked frame, and a listen that is open without a reception is cut, while a SEND outstanding runs
on; every frame waiting, those of a FROZEN plan's burst included, is dropped with reason STOPPED: the counter rises by one
for each, the box of an originated one reads DONE with its outcome record STOPPED, and with no burst the serials follow the
order of the drop and no other box changes (R118, R127, R164, R182). That the drop comes before the engine is HALTED is the
model's choice (entry 73), seen by no clause here. That no operation waits for a report any more, and that a listen cut after its window was over
keeps its end, is the model's choice (assumption log entry 16); the empty `dataOut` is its bookkeeping (entry 9). -/
def Obligations.StopCommandRows : Prop :=
  ∀ (t : Sixteenth) (s : State), s.port.txn = none →
    (s.radio.engine = .halted ∨ (s.radio.engine ≠ .faulted ∧ s.radio.stopPending = true) →
      exec (.stop t) s = .next { s.enter t with port := { s.port with dataOut := [] } }) ∧
    (s.radio.engine = .discovery ∨ s.radio.engine = .running → s.radio.stopPending = false →
      ((s.planner.state = .burst ∧ s.planner.tx ≠ .idle) ∨
        (s.recv.holds = true ∧ s.radio.waiting = none ∧
          ∀ o, s.radio.op = some o → o.purpose ≠ .ownListen ∨ o.started ≠ none) ∨
        ∃ o, s.radio.op = some o ∧ o.started ≠ none) →
      ∃ s', exec (.stop t) s = .next s' ∧ s'.now16 = t ∧ s'.radio.engine = s.radio.engine ∧
        s'.radio.stopPending = true ∧ s'.radio.faultLatch = s.radio.faultLatch ∧ s'.port.flags = s.port.flags ∧
        (s.port.backlog = [] →
          (s.planner.state ≠ .burst → s'.planner.state = .none) ∧
          (s.planner.state = .open ∨ s.planner.state = .frozen → s'.planner.plan = none) ∧
          ∀ o, s.radio.op = some o → o.kind = .listen → o.started ≠ none → o.purpose ≠ .survey →
            ∃ mark : Claim → Claim, (∀ c, mark c = c ∨ mark c = { c with overtaken := true }) ∧
              s'.radio.timeline = (s.radio.timeline.filter fun c =>
                if c.kind.isTransmission then decide (s.planner.state = .burst)
                else decide (c.purpose = some o.purpose)).map mark)) ∧
    (s.radio.engine = .faulted ∨ ((s.radio.engine = .discovery ∨ s.radio.engine = .running) ∧
        s.radio.stopPending = false ∧ s.planner.tx = .idle ∧ s.recv.holds = false ∧
        ∀ o, s.radio.op = some o → o.started = none) →
      ∃ s', exec (.stop t) s = .next s' ∧ s'.now16 = t ∧ s'.radio.engine = .halted ∧ s'.radio.stopPending = false ∧
        s'.radio.faultLatch = s.radio.faultLatch ∧ s'.sched.long = none ∧ s'.port.flags = s.port.flags ∧
        (s.port.backlog = [] →
          s'.radio.timeline = [] ∧ s'.radio.waiting = none ∧ s'.store.queue = [] ∧ s'.store.parked = [] ∧
          (s.planner.state ≠ .burst → s'.planner.state = .none) ∧
          (s.memOk → s.store.burst = [] → s.stopsInOrder s') ∧
          (s.cellsOk → s.store.burst = [] ∨ s.planner.state = .frozen →
            let waiting := s.store.queue ++ s.store.parked ++ s.store.burst
            s'.port.counters.stopped
              = Nat.repeat (fun n => min 65535 (n + 1)) waiting.length s.port.counters.stopped ∧
            ∀ f ∈ waiting, ∀ b, f.source = .originated b → (∀ g ∈ waiting, g.source = .originated b → g = f) →
              s.memOk → b ∉ s.port.lent → s.readsStopped s' b f) ∧
          (s.radio.engine ≠ .faulted → ∀ o, s.radio.op = some o →
            let e := if 0 ≤ (tickOf t - o.stop).toInt then o.stop else tickOf t
            s'.radio.op = some
              (if o.kind = .listen ∧ o.cut = false ∧
                  (o.purpose = .ownListen ∨ o.purpose = .segment ∨ ∃ a, o.purpose = .refresh a)
                then { o with stop := e, due := e, cut := true } else o))))

/-- STOP_TAKES_EFFECT: a pending stop whose exchange has ended drops every queued and parked frame with reason STOPPED,
empties the timeline, ends a census or discovery and halts the engine; otherwise only time passes (R118, R164). The frames of
the transmit queue are dropped in their order, then those of the parked list: each raises the counter, and the box of each
originated one reads DONE with its outcome record STOPPED (kind and tag as they stood, sequence, hop limit, no neighbor, the
attempts), the completion serials following that order; no other box changes (R118, R182, R190). An event that is not due
only moves the clock (the model's choice, assumption log entry 2). -/
def Obligations.StopTakesEffectDropsFrames : Prop :=
  ∀ (t : Sixteenth) (s : State),
    (s.radio.stopPending = false ∨ s.planner.tx ≠ .idle ∨ s.recv.holds = true →
      exec (.stopTakesEffect t) s = .next (s.enter t)) ∧
    (s.radio.stopPending = true → s.planner.tx = .idle → s.recv.state = .idle → s.radio.op = none →
      s.port.backlog = [] → s.store.burst = [] → s.planner.state = .none →
      ∃ s', exec (.stopTakesEffect t) s = .next s' ∧ s'.now16 = t ∧ s'.radio.engine = .halted ∧
        s'.radio.stopPending = false ∧ s'.radio.timeline = [] ∧ s'.sched.long = none ∧ s'.store.queue = [] ∧
        s'.store.parked = [] ∧ s'.store.staging.Sublist s.store.staging ∧ s'.nbr = s.nbr ∧ s'.route = s.route ∧
        s'.port.lent = s.port.lent ∧ s'.req.settings = s.req.settings ∧
        s'.port.counters.stopped
          = Nat.repeat (fun n => min 65535 (n + 1)) (s.store.queue ++ s.store.parked).length s.port.counters.stopped ∧
        (s.memOk → s.stopsInOrder s'))

/-- CLEAR_FAULT, row by row (R165): from FAULTED the engine enters DISCOVERY with a RESET-FRONT-END issued and a discovery
that waits for its answer; in HALTED a held latch is cleared and the reset issued; anything else is ignored. The strike
flag stays. The reset is the one operation outstanding, and none waits (R152; assumption log entry 16). The empty
`dataOut` is the model's bookkeeping (entry 9). -/
def Obligations.ClearFaultRows : Prop :=
  ∀ (t : Sixteenth) (s : State), s.port.txn = none →
    let now := tickOf t
    let reset : Operation :=
      { kind := .resetFrontEnd, purpose := .resetFrontEnd, channel := 0, start := now, stop := now, start16 := t
        bytes := [], started := none, due := now, cut := false }
    let quietPort := { s.port with dataOut := [] }
    let waits : LongListen :=
      { discovery := true, span := s.req.settings.discoverySpan * 32768, counted := 0, waiting := true }
    (s.radio.engine = .faulted →
      (∃ s', exec (.clearFault t) s = .next s' ∧ s'.now16 = t ∧ s'.radio.engine = .discovery ∧
        s'.radio.faultLatch = false ∧ s'.radio.strike = s.radio.strike ∧ s'.radio.op = some reset ∧
        s'.port.flags = s.port.flags ∧
        s'.sched.long = some waits) ∧
      (s.port.backlog = [] →
        exec (.clearFault t) s = .next
          { s.enter t with
            radio := { s.radio with engine := .discovery, faultLatch := false, op := some reset, waiting := none }
            sched := { s.sched with long := some waits }
            port := quietPort })) ∧
    (s.radio.engine = .halted → s.radio.faultLatch = true →
      exec (.clearFault t) s = .next
        { s.enter t with
          radio := { s.radio with faultLatch := false, op := some reset, waiting := none }
          port := quietPort }) ∧
    (s.radio.engine = .discovery ∨ s.radio.engine = .running ∨
        (s.radio.engine = .halted ∧ s.radio.faultLatch = false) →
      exec (.clearFault t) s = .next { s.enter t with port := quietPort })

/-- The reset control command brings every block to its reset state, SUPPLY as it stands with its debounce run (R39), and
keeps the exchange memory: TAKEN boxes complete RESET, lent boxes become EMPTY with their bodies, other boxes stay as they
are, and posted ones are scanned again (R174, R190). What the requests of that scan may change (survey and pending mask,
lists, settings, store, counters) is stated for a map that posts none; there the fourth RESET completion asserts ATTN,
which latches the one page (R175, R177). The commands still waiting and the count of draws stay (the model's choice,
assumption log entry 46). -/
def Obligations.ResetCommandKeepsMemory : Prop :=
  ∀ (t : Sixteenth) (s : State), s.port.txn = none → s.memOk → s.boxesOk →
    ∃ s', exec (.reset t) s = .next s' ∧ s'.now16 = 0 ∧ s'.radio.engine = .halted ∧ s'.radio.stopPending = false ∧
      s'.radio.faultLatch = false ∧ s'.radio.strike = false ∧ s'.sched.mask = 0xFFFF ∧ s'.sched.epoch = 0 ∧
      s'.sched.supplyHigh = s.sched.supplyHigh ∧ s'.sched.supplyMode = .normal ∧ s'.sched.long = none ∧
      s'.port.flags = ⟨false, false, false, false, false⟩ ∧ s'.port.attention.mask = ⟨true, true, true, true⟩ ∧
      s'.pending = s.pending ∧
      s'.steady = { State.reset.steady with
        supplyHigh := s.sched.supplyHigh
        debounce := if s.sched.supplyHigh then none else some { high := false, start := 0, due := 65536 }
        draws := s.draws, pending := s.pending } ∧
      ((∀ b : Box, Memory.read s.port.mem b.val ≠ 0x01) →
        s'.nbr = State.reset.nbr ∧ s'.route = State.reset.route ∧ s'.store = State.reset.store ∧
        s'.planner = State.reset.planner ∧ s'.recv = State.reset.recv ∧ s'.radio = State.reset.radio ∧
        s'.sched = { State.reset.sched with
          supplyHigh := s.sched.supplyHigh
          debounce := if s.sched.supplyHigh then none else some { high := false, start := 0, due := 65536 } } ∧
        s'.port.counters = {} ∧ s'.port.latchCount = (if 4 ≤ s.port.taken.length then 1 else 0) ∧
        s'.port.txn = none ∧ s'.port.snapshot = none ∧ s'.req.overflow = false ∧
        s'.req.settings = {} ∧ s'.req.notices = [] ∧ s'.req.serial = BitVec.ofNat 16 s.port.taken.length ∧
        s'.port.backlog = [] ∧ s'.port.lent = [] ∧ s'.port.taken = [] ∧
        (∀ b ∈ s.port.taken, Memory.read s'.port.mem b.val = 0x03 ∧
          Memory.read s'.port.mem (bodyAddr b + 1) = 0x07 ∧
          Memory.read s'.port.mem (bodyAddr b) = Memory.read s.port.mem (bodyAddr b)) ∧
        (∀ b ∈ s.port.lent, Memory.read s'.port.mem b.val = 0x00) ∧
        (∀ b : Box, b ∉ s.port.taken → b ∉ s.port.lent → Memory.read s'.port.mem b.val = Memory.read s.port.mem b.val) ∧
        (∀ (b : Box) (i : Nat), b ∉ s.port.taken → i < 256 →
          Memory.read s'.port.mem (bodyAddr b + i) = Memory.read s.port.mem (bodyAddr b + i)))

/-! ## Boxes -/

/-- A completed request (outcome record with kind and tag as read, code, serial and details, then DONE) and a filled lent box
(the record, then FILLED): zeros to the end of the body, the box leaves its collection, the serial rises by 1, each is one
completion at the attention unit, and no other box is touched (R173, R180, R187, R189, R190, R192). The values of the
outcome codes are those of 12_formats.md, section 12.2. -/
def Obligations.BoxesCompletedAndFilled : Prop :=
  (∀ (b : Box) (c : OutcomeCode) (d : List Byte) (s : State), s.memOk → d.length ≤ 250 →
     ∃ p0 p : Port, s.finishBox b c d = { s with port := p, req := { s.req with serial := s.req.serial + 1 } } ∧
       s.finishBox b c d
         = State.completion { s with port := p0, req := { s.req with serial := s.req.serial + 1 } } false ∧
       p0.attention = s.port.attention ∧
       p.backlog = s.port.backlog.filter (· ≠ b) ∧ p.lent = s.port.lent ∧ p.taken = s.port.taken.filter (· ≠ b) ∧
       p.flags = s.port.flags ∧ p.counters = s.port.counters ∧ p.dataOut = s.port.dataOut ∧
       Memory.read p.mem b.val = 0x03 ∧
       (∀ i, i < 256 → Memory.read p.mem (bodyAddr b + i) =
         if i = 1 then c.byte
         else if i = 0 ∨ i = 2 ∨ i = 3 then Memory.read s.port.mem (bodyAddr b + i)
         else if i = 4 then s.req.serial.extractLsb' 0 8
         else if i = 5 then s.req.serial.extractLsb' 8 8
         else d.getD (i - 6) 0) ∧
       ∀ b' : Box, b' ≠ b → Memory.read p.mem b'.val = Memory.read s.port.mem b'.val ∧
         ∀ i, i < 256 → Memory.read p.mem (bodyAddr b' + i) = Memory.read s.port.mem (bodyAddr b' + i)) ∧
  (∀ (b : Box) (r : List Byte) (alarm : Bool) (s : State), s.memOk → r.length ≤ 256 →
     ∃ p0 p : Port, s.fillBox b r alarm = { s with port := p, req := { s.req with serial := s.req.serial + 1 } } ∧
       s.fillBox b r alarm
         = State.completion { s with port := p0, req := { s.req with serial := s.req.serial + 1 } } alarm ∧
       p0.attention = s.port.attention ∧
       p.backlog = s.port.backlog ∧ p.lent = s.port.lent.filter (· ≠ b) ∧ p.taken = s.port.taken ∧
       p.flags = s.port.flags ∧ p.counters = s.port.counters ∧
       Memory.read p.mem b.val = 0x05 ∧ (∀ i, i < 256 → Memory.read p.mem (bodyAddr b + i) = r.getD i 0) ∧
       ∀ b' : Box, b' ≠ b → Memory.read p.mem b'.val = Memory.read s.port.mem b'.val ∧
         ∀ i, i < 256 → Memory.read p.mem (bodyAddr b' + i) = Memory.read s.port.mem (bodyAddr b' + i)) ∧
  [OutcomeCode.ok, .clamped, .forwarded, .exhausted, .noroute, .discarded, .stopped, .reset, .notRunning, .radioFault,
      .badreq, .badvalue, .wrongState, .fullList].map OutcomeCode.byte
    = [0x00, 0x01, 0x02, 0x03, 0x04, 0x05, 0x06, 0x07, 0x08, 0x09, 0x10, 0x11, 0x12, 0x13]

/-- A raised notice goes into the oldest lent box, or to the tail of the queue; from a queue of 8 the oldest is dropped, the
loss is counted and the overflow mark set; a disabled code raises nothing (R188, R189). The codes and the optional fields
of the six notices, byte by byte (12_formats.md, section 12.2). -/
def Obligations.NoticeRaisedAndServed : Prop :=
  (∀ (o n a : Addr) (u : Nat) (g : BitVec 8) (m : Mask) (x : Byte),
    let low (w : BitVec 16) : Byte := w.extractLsb' 0 8
    let high (w : BitVec 16) : Byte := w.extractLsb' 8 8
    let shows (e : NoticeEvent) (code : Nat) (bytes : List Byte) : Prop := e.code = code ∧ e.fields = bytes
    shows (.parent o n u) 1 [low o, high o, low n, high n, BitVec.ofNat 8 u, BitVec.ofNat 8 (u / 256)] ∧
    shows (.neighborIn a g) 2 [low a, high a, g] ∧
    shows (.neighborOut a .probation) 3 [low a, high a, 1] ∧ shows (.neighborOut a .age) 3 [low a, high a, 2] ∧
    shows (.neighborOut a .barred) 3 [low a, high a, 3] ∧ shows (.neighborOut a .replaced) 3 [low a, high a, 4] ∧
    shows (.neighborOut a .ownAddress) 3 [low a, high a, 5] ∧ shows (.mask m x) 4 [low m, high m, x] ∧
    shows (.supply .normal) 5 [0] ∧ shows (.supply .reserve) 5 [1] ∧ shows (.radioFault .listen) 6 [1] ∧
    shows (.radioFault .send) 6 [2] ∧ shows (.radioFault .sense) 6 [3] ∧ shows (.radioFault .resetFrontEnd) 6 [4]) ∧
  ∀ (e : NoticeEvent) (s : State),
    let n : Notice := { event := e, tick := s.now }
    (s.req.settings.noticeMask.getLsbD (e.code - 1) = false → s.notify e = s) ∧
    (s.req.settings.noticeMask.getLsbD (e.code - 1) = true →
      (s.port.lent = [] → s.req.notices.length < 8 →
        s.notify e = { s with req := { s.req with notices := s.req.notices ++ [n] } }) ∧
      (s.port.lent = [] → s.req.notices.length = 8 →
        s.notify e = { s with
          req := { s.req with notices := s.req.notices.tail ++ [n], overflow := true }
          port := { s.port with
            counters := { s.port.counters with noticesLost := min 65535 (s.port.counters.noticesLost + 1) } } }) ∧
      (∀ b bs, s.port.lent = b :: bs →
        s.notify e = State.fillBox { s with req := { s.req with overflow := false } } b
          ([0x81, BitVec.ofNat 8 e.code] ++ leBytes 2 s.req.serial.toNat ++ [if s.req.overflow then 1 else 0, 0]
            ++ leBytes 4 s.now.toNat ++ e.fields) false)) ∧
    (∀ b bs m ms, s.port.lent = b :: bs → s.req.notices = m :: ms → s.store.staging = [] →
      s.serveNotice = State.fillBox { s with req := { s.req with notices := ms, overflow := false } } b
        ([0x81, BitVec.ofNat 8 m.event.code] ++ leBytes 2 s.req.serial.toNat ++ [if s.req.overflow then 1 else 0, 0]
          ++ leBytes 4 m.tick.toNat ++ m.event.fields) false)

/-! ## Requests -/

/-- Which records are sound as a whole, and as what (R180, R192): the kind byte, flags 0, and the body length that the
record's own fields declare, at most 250. -/
def Obligations.SoundRequestRecords : Prop :=
  ∀ (r : List Byte) (k : ReqKind),
    requestKind r = some k ↔
      byteAt r 1 = 0 ∧ leAt r 4 2 ≤ 250 ∧
        ((k = .send ∧ byteAt r 0 = 0x01 ∧ leAt r 4 2 = 5 + (byteAt r 10).toNat) ∨
          (k = .set ∧ byteAt r 0 = 0x02 ∧ leAt r 4 2 = 1 + 3 * (byteAt r 6).toNat) ∨
          (k = .query ∧ byteAt r 0 = 0x03 ∧ leAt r 4 2 = 3) ∨
          (k = .pin ∧ byteAt r 0 = 0x04 ∧ leAt r 4 2 = 2) ∨ (k = .unpin ∧ byteAt r 0 = 0x05 ∧ leAt r 4 2 = 2) ∨
          (k = .bar ∧ byteAt r 0 = 0x06 ∧ leAt r 4 2 = 2) ∨ (k = .unbar ∧ byteAt r 0 = 0x07 ∧ leAt r 4 2 = 2))

/-- REQUEST_BADREQ and QUERY complete their box at once and change nothing else: BADREQ for a faulty record and for an
unknown table, OK with the table's entries from the start index on otherwise (R180, R185). That a PIN, UNPIN, BAR or UNBAR
faulty as a whole completes with empty details, as every faulty record does, is the model's choice (assumption log entry
41). The entries of NEIGHBORS, TRAILS and QUEUES, field by field (12_formats.md, section 12.2; a record without a schedule
shows exponent 0, entry 40). -/
def Obligations.BadRequestAndQuery : Prop :=
  (∀ (r : Neighbor) (now : Tick),
    let e := r.entry now
    e.length = 24 ∧ leAt e 0 2 = r.address.toNat ∧
    leAt e 2 1 = r.active.toNat
      + 2 * (match r.tracker.state with | .acquire => 0 | .locked => 1 | .holdover => 2 | .lapsed => 3) ∧
    leAt e 3 1 = r.untried.toNat + 2 * r.poisoned.toNat + 4 * r.hold.isSome.toNat + 8 * r.stale.toNat
      + 16 * r.pinned.toNat ∧
    leAt e 4 1 = r.tracker.lockLoss % 256 ∧ leAt e 5 2 = r.q % 65536 ∧
    leAt e 7 2 = (if r.q < 256 then 256 else 65536 / r.q) ∧ byteAt e 9 = BitVec.ofInt 8 r.signal ∧
    leAt e 10 2 = r.cost % 65536 ∧ leAt e 12 2 = r.parent.toNat ∧ leAt e 14 1 = r.grant % 256 ∧
    leAt e 15 1 = ((r.schedule.map (·.exponent)).getD 0) % 256 ∧
    leAt e 16 2 = (if r.tracker.state = .lapsed then r.tracker.lapseAge % 65536
      else match r.tracker.lastSample with
        | some x => min 65535 ((now - x).toNat / 32768)
        | none => 0) ∧
    ∀ i, 18 ≤ i → byteAt e i = 0) ∧
  (∀ (x : Trail) (now : Tick),
    let e := x.entry now
    e.length = 6 ∧ leAt e 0 2 = x.origin.toNat ∧ leAt e 2 2 = x.next.toNat ∧
      leAt e 4 2 = min 65535 ((now - x.refreshed).toNat / 32768)) ∧
  (∀ (f : FrameRec) (place : Nat), place ≤ 3 →
    let e := f.entry place
    e.length = 12 ∧ leAt e 0 1 = place ∧ leAt e 1 2 = f.origin.toNat ∧ leAt e 3 2 = f.destination.toNat ∧
    byteAt e 5 = f.sequence ∧ leAt e 6 1 = (match f.cls with | .alarm => 0 | .control => 1 | .bulk => 2) ∧
    leAt e 7 2 = (match f.binding with | .uplink => 0xFFFE | .bound a => a.toNat | .localDelivery => 0) ∧
    leAt e 9 1 = f.total % 256 ∧ leAt e 10 1 = f.hops % 256 ∧
    leAt e 11 1 = (match f.source with | .originated b => b.val | .relayed .. => 0xFF)) ∧
  ∀ (t : Sixteenth) (b : Box) (s : State), b ∈ s.port.backlog → s.port.txn = none →
    let r := s.port.body b
    let table := (byteAt r 6).toNat
    let start := leAt r 7 2
    let answers (entries : List (List Byte)) (perBox : Nat) : Prop :=
      exec (.query t b) s = .next ((s.enter t).finishBox b .ok
        ([byteAt r 6] ++ leBytes 2 start ++ [BitVec.ofNat 8 (min perBox (entries.length - start))]
          ++ leBytes 2 entries.length ++ ((entries.drop start).take perBox).flatten))
    (requestKind r = none → exec (.requestBadreq t b) s = .next ((s.enter t).finishBox b .badreq [])) ∧
    (requestKind r = some .query →
      (table = 0 ∨ 6 < table → exec (.query t b) s = .next ((s.enter t).finishBox b .badreq [])) ∧
      (table = 1 → answers (s.nbr.records.map fun n => n.entry (tickOf t)) 10) ∧
      (table = 2 → answers (s.route.trails.map fun e => e.entry (tickOf t)) 40) ∧
      (table = 3 → answers (s.route.parents.map fun p => leBytes 2 p.address.toNat ++ leBytes 2 p.cost) 3) ∧
      (table = 4 → answers (s.store.queue.map (FrameRec.entry 0) ++ s.store.parked.map (FrameRec.entry 1)
        ++ s.store.burst.map (FrameRec.entry 2) ++ s.store.staging.map (FrameRec.entry 3)) 20) ∧
      (table = 5 → answers (s.nbr.pins.map fun a => leBytes 2 a.toNat) 8) ∧
      (table = 6 → answers (s.nbr.bars.map fun a => leBytes 2 a.toNat) 8))

/-- PIN, UNPIN, UNBAR and BAR (R71, R72, R186): BADVALUE with both lists unchanged for an address that is no node address;
FULL_LIST for a ninth entry; otherwise OK with the lists and pinned flags as the rules give and both lengths after it. BAR of
an address with a record evicts it (R70): the record is gone and NEIGHBOR_OUT raised while the box still waits, and then the
box completes OK. -/
def Obligations.PinAndBarRequests : Prop :=
  (∀ (t : Sixteenth) (b : Box) (s : State), b ∈ s.port.backlog → s.port.txn = none →
     let a := word16 (s.port.body b) 6
     let node := 0x0001 ≤ a.toNat ∧ a.toNat ≤ 0xFEFF
     let flagged (pin : Bool) (pins bars : List Addr) : State :=
       { s.enter t with nbr := { s.nbr with
           places := s.nbr.places.map fun p => p.map fun n => if n.address = a then { n with pinned := pin } else n
           pins := pins, bars := bars } }
     let done (s' : State) (c : OutcomeCode) : Host.Outcome State Fault Refusal :=
       .next (s'.finishBox b c
         (leBytes 2 a.toNat ++ [BitVec.ofNat 8 s'.nbr.pins.length, BitVec.ofNat 8 s'.nbr.bars.length]))
     (requestKind (s.port.body b) = some .pin →
       (¬node → exec (.pin t b) s = done (s.enter t) .badvalue) ∧
       (node → a ∈ s.nbr.pins → exec (.pin t b) s = done (s.enter t) .ok) ∧
       (node → a ∉ s.nbr.pins → 8 ≤ s.nbr.pins.length → exec (.pin t b) s = done (s.enter t) .fullList) ∧
       (node → a ∉ s.nbr.pins → s.nbr.pins.length < 8 →
         exec (.pin t b) s = done (flagged true (s.nbr.pins ++ [a]) (s.nbr.bars.filter (· ≠ a))) .ok)) ∧
     (requestKind (s.port.body b) = some .unpin →
       (¬node → exec (.unpin t b) s = done (s.enter t) .badvalue) ∧
       (node → exec (.unpin t b) s = done (flagged false (s.nbr.pins.filter (· ≠ a)) s.nbr.bars) .ok)) ∧
     (requestKind (s.port.body b) = some .unbar →
       (¬node → exec (.unbar t b) s = done (s.enter t) .badvalue) ∧
       (node → exec (.unbar t b) s = done
         { s.enter t with nbr := { s.nbr with bars := s.nbr.bars.filter (· ≠ a) } } .ok))) ∧
  (∀ (t : Sixteenth) (b : Box) (s : State), b ∈ s.port.backlog → s.port.txn = none →
     requestKind (s.port.body b) = some .bar →
     let a := word16 (s.port.body b) 6
     let node := 0x0001 ≤ a.toNat ∧ a.toNat ≤ 0xFEFF
     let barred : State := { s.enter t with
       nbr := { s.nbr with bars := s.nbr.bars ++ [a], pins := s.nbr.pins.filter (· ≠ a) } }
     let done (s' : State) (c : OutcomeCode) : Host.Outcome State Fault Refusal :=
       .next (s'.finishBox b c
         (leBytes 2 a.toNat ++ [BitVec.ofNat 8 s'.nbr.pins.length, BitVec.ofNat 8 s'.nbr.bars.length]))
     (¬node → exec (.bar t b) s = done (s.enter t) .badvalue) ∧
     (node → a ∈ s.nbr.bars → exec (.bar t b) s = done (s.enter t) .ok) ∧
     (node → a ∉ s.nbr.bars → 8 ≤ s.nbr.bars.length → exec (.bar t b) s = done (s.enter t) .fullList) ∧
     (node → a ∉ s.nbr.bars → s.nbr.bars.length < 8 →
       (s.nbr.find a = none → exec (.bar t b) s = done barred .ok) ∧
       (∀ r, s.nbr.find a = some r → ∃ s1 : State, exec (.bar t b) s = .next (State.finish (s1.finishBox b .ok
           (leBytes 2 a.toNat ++ [BitVec.ofNat 8 s1.nbr.pins.length, BitVec.ofNat 8 s1.nbr.bars.length]))) ∧
         s1.nbr.find a = none ∧ s1.nbr.pins = barred.nbr.pins ∧ s1.nbr.bars = barred.nbr.bars ∧
         ((∀ g ∈ s.store.queue ++ s.store.parked ++ s.store.burst, g.source ≠ .originated b) →
           s1.port.backlog.contains b = true) ∧
         (s.req.settings.noticeMask.getLsbD 2 = true →
           (s.port.lent = [] → s.req.notices.length < 7 →
             { event := .neighborOut a .barred, tick := tickOf t } ∈ s1.req.notices) ∧
           ∀ c cs, s.port.lent = c :: cs → s.memOk →
             c ∉ s1.port.lent ∧ Memory.read s1.port.mem c.val = 0x05 ∧ Memory.read s1.port.mem (bodyAddr c) = 0x81 ∧
             Memory.read s1.port.mem (bodyAddr c + 1) = 3)) ∧
       (s.port.backlog = [b] → ∃ s', exec (.bar t b) s = .next s' ∧ s'.now16 = t ∧
         s'.nbr.find a = none ∧
         s'.nbr.bars = s.nbr.bars ++ [a] ∧ s'.nbr.pins = s.nbr.pins.filter (· ≠ a) ∧ s'.port.backlog = [] ∧
         s'.port.flags = s.port.flags ∧ s'.req.settings = s.req.settings)))

/-- Eviction (R70, R96, R120): the record's place empties and the other addresses keep their records; the trails through
the address, its parent entry, its lost-beat mark and its place as a failed neighbor go; no queued or parked frame stays
bound to it; an OPEN or FROZEN plan toward it is dropped with its claim, a burst under way is marked; review, pass and
recomputation are called for and NEIGHBOR_OUT is raised. Admission of a beacon from an address without a record
(R64, R65, R66): refused for a bar or below the floor, taken into a free place, or into that of the victim; counted
refused without one. The new record holds the beacon's schedule with its pending mask, or is schedule-stale where its
values are unusable or disagree (R58, R61, R148; that it then holds no schedule is assumption log entry 20), and NEIGHBOR_IN
is raised, after the victim's NEIGHBOR_OUT (R66, R188). Beacon intake (R148): a beacon of the own address is passed over, one from a known neighbor refreshes
its record. Both are stated as SET and BAR run them, and as the other rows do, with a backlog scan after each frame
dropped, while the backlog is empty. -/
def Obligations.EvictionForgets : Prop :=
  (∀ (scan : State → State) (a : Addr) (why : EvictReason) (s : State),
    scan = id ∨ (scan = State.runScan ∧ s.port.backlog = []) →
    let s' := s.evict scan a why
    s'.nbr.find a = none ∧
    (∀ x, x ≠ a → (s'.nbr.find x).isSome = (s.nbr.find x).isSome ∧
      (s.radio.engine ≠ .running → s'.nbr.find x = s.nbr.find x)) ∧
    s'.route.trails = s.route.trails.filter (fun e => e.next ≠ a) ∧
    s'.route.parents = s.route.parents.filter (fun p => p.address ≠ a) ∧
    (∀ g ∈ s'.store.queue ++ s'.store.parked, g.binding ≠ .bound a ∧ g.lastFail ≠ some a) ∧
    s'.planner.marks = s.planner.marks.filter (fun m => m.1 ≠ a) ∧
    (∀ p, s.planner.plan = some p → p.target = a →
      (s.planner.state = .burst → s'.planner.state = .burst ∧ s'.planner.plan = some { p with evicted := true }) ∧
      (s.planner.state ≠ .burst → s'.planner.state = .none ∧ s'.planner.plan = none ∧
        ∀ c ∈ s'.radio.timeline, c.kind.isTransmission = false)) ∧
    ((∀ p, s.planner.plan = some p → p.target ≠ a) →
      s'.planner.plan = s.planner.plan ∧ s'.planner.state = s.planner.state) ∧
    s'.work.review = true ∧ s'.work.pass = true ∧ s'.work.recompute = true ∧
    (s.req.settings.noticeMask.getLsbD 2 = true → s.port.lent = [] → s.req.notices.length < 8 →
      s'.req.notices = s.req.notices ++ [{ event := .neighborOut a why, tick := s.now }])) ∧
  ∀ (scan : State → State) (b : BeaconFrame) (capture : Sixteenth) (level : BitVec 8) (s : State),
    scan = id ∨ (scan = State.runScan ∧ s.port.backlog = []) →
    let a := b.transmitter
    let s' := s.intake scan b capture level
    let st := s.req.settings
    let four (m : Mask) : Bool := decide (4 ≤ (dataChannels m b.channel).length)
    let usable : Bool := decide (9 ≤ b.exponent ∧ b.exponent ≤ 16 ∧ b.beaconExponent ≤ 20 ∧
      512 * b.phase < 2 ^ b.exponent ∧ b.timestamp.toNat % 2 ^ b.beaconExponent = 512 * b.phase ∧
      b.number = b.timestamp.toNat / 2 ^ b.beaconExponent % 256) && four b.mask
    let ahead := (b.applyNumber + 256 - b.number % 256) % 256
    let pending : Option PendingMask :=
      if b.pendingMask ≠ 0 ∧ four b.pendingMask = true ∧ ahead ≠ 0 then
        some { mask := b.pendingMask, number := b.applyNumber
               instant := b.timestamp + BitVec.ofNat 32 (ahead * 2 ^ b.beaconExponent) }
      else none
    let schedule : Schedule :=
      { exponent := b.exponent, phase := 512 * b.phase, halfWindow := b.halfWindow, beaconExponent := b.beaconExponent
        beaconChannel := b.channel, mask := b.mask, epoch := b.epoch, pending := pending }
    let admitted : Prop :=
      s'.nbr.find a = some
        { address := a, active := false
          tracker := { Tracker.new with anchor := some (b.timestamp, capture), lastSample := some s.now }
          schedule := if usable then some schedule else none, stale := !usable, cost := b.cost, parent := b.parent
          poisoned := false
          hold := match b.flow with
            | .hold => some (s.now + BitVec.ofNat 32 (st.holdLifetime * 32768))
            | .go => none
          grant := b.grant, q := 2048, updates := 0, untried := true, signal := level.toInt, lastTried := none
          admission := s.now, pinned := s.nbr.pins.contains a } ∧
      s'.work.review = true
    let heard : NoticeEvent := .neighborIn a level
    let replaces (v : Neighbor) : Prop :=
      let out : NoticeEvent := .neighborOut v.address .replaced
      let notice (e : NoticeEvent) : List Notice :=
        if st.noticeMask.getLsbD (e.code - 1) then [{ event := e, tick := s.now }] else []
      let unbound := ∀ f ∈ s.store.queue ++ s.store.parked ++ s.store.burst, f.binding ≠ .bound v.address
      (s.port.lent = [] → s.req.notices.length ≤ 6 → s'.req.notices = s.req.notices ++ notice out ++ notice heard) ∧
      (st.noticeMask.getLsbD 2 = false → unbound → s.raises s' heard) ∧
      (st.noticeMask.getLsbD 1 = true → st.noticeMask.getLsbD 2 = true → unbound → s.memOk → s.boxesOk →
        ∀ c d ds, s.port.lent = c :: d :: ds → s'.port.lent = ds ∧ Memory.read s'.port.mem c.val = 0x05 ∧
          Memory.read s'.port.mem (bodyAddr c + 1) = 3 ∧ Memory.read s'.port.mem d.val = 0x05 ∧
          Memory.read s'.port.mem (bodyAddr d + 1) = 2)
    let probation (r : Neighbor) : Prop := r ∈ s.nbr.records ∧ r.pinned = false ∧ r.active = false
    let weak (r : Neighbor) : Prop := r ∈ s.nbr.records ∧ r.pinned = false ∧ r.active = true ∧
      (∀ p ∈ s.route.parents, p.address ≠ r.address) ∧
      ∀ f ∈ s.store.queue ++ s.store.parked ++ s.store.burst, f.binding ≠ .bound r.address
    let waited (r : Neighbor) : Nat := (s.now - r.admission).toNat
    (a = st.ownAddress → s' = s) ∧
    (a ≠ st.ownAddress → s.nbr.find a ≠ none → s' = s.refreshNbr b capture level) ∧
    (a ≠ st.ownAddress → s.nbr.find a = none → a ∈ s.nbr.bars ∨ level.toInt < st.admissionFloor → s' = s) ∧
    (a ≠ st.ownAddress → a ∉ s.nbr.bars → st.admissionFloor ≤ level.toInt → s.nbr.find a = none →
      (none ∈ s.nbr.places → admitted ∧ s.raises s' heard) ∧
      (none ∉ s.nbr.places →
        ((∃ r, probation r) →
          admitted ∧ ∃ v, probation v ∧ s'.nbr.find v.address = none ∧ replaces v ∧
            ∀ r, probation r → waited r < waited v ∨ (waited r = waited v ∧ v.address.toNat ≤ r.address.toNat)) ∧
        ((∀ r, ¬probation r) → (∃ r, weak r ∧ r.signal + 6 ≤ level.toInt) →
          admitted ∧ ∃ v, weak v ∧ s'.nbr.find v.address = none ∧ replaces v ∧
            ∀ r, weak r → v.signal < r.signal ∨ (v.signal = r.signal ∧ r.address.toNat ≤ v.address.toNat)) ∧
        ((∀ r, ¬probation r) → (∀ r, weak r → level.toInt < r.signal + 6) →
          s' = { s with port := { s.port with counters := { s.port.counters with
            admissionRefusals := min 65535 (s.port.counters.admissionRefusals + 1) } } })))

/-- A SEND that fails a test of R181 completes with that test's outcome, and one that must wait stays in place; neither
changes anything else but, for NOROUTE, its counter; that the counter rises before the box is written DONE is the model's
choice (assumption log entry 69). -/
def Obligations.SendTests : Prop :=
  ∀ (t : Sixteenth) (b : Box) (s : State), b ∈ s.port.backlog → s.port.txn = none →
    requestKind (s.port.body b) = some .send →
    let r := s.port.body b
    let n := (byteAt r 10).toNat
    let cls := (byteAt r 8).toNat
    let d := word16 r 6
    let free := s.store.free
    let legal := 1 ≤ n ∧ n ≤ 96 ∧ cls ≤ 2 ∧
      ((1 ≤ d.toNat ∧ d.toNat ≤ 0xFEFF ∧ d ≠ s.req.settings.ownAddress) ∨
        (d = 0xFFFE ∧ s.req.settings.gateway = false))
    let done (c : OutcomeCode) : Host.Outcome State Fault Refusal := .next ((s.enter t).finishBox b c [])
    let lost := s.req.settings.gateway = true ∧ s.nbr.find d = none ∧ s.route.trail d = none
    (¬legal → exec (.send t b) s = done .badreq) ∧
    (legal → s.radio.engine = .halted → exec (.send t b) s = done .notRunning) ∧
    (legal → s.radio.engine = .faulted → exec (.send t b) s = done .radioFault) ∧
    (legal → s.radio.engine = .discovery ∨ s.radio.engine = .running →
      (s.radio.stopPending = true → exec (.send t b) s = .next (s.enter t)) ∧
      (s.radio.stopPending = false → lost →
        exec (.send t b) s = .next (State.finishBox
          { s.enter t with port := { s.port with
              counters := { s.port.counters with noroute := min 65535 (s.port.counters.noroute + 1) } } } b .noroute [])) ∧
      (s.radio.stopPending = false → ¬lost → (if cls = 0 then free = 0 else free ≤ 4) →
        exec (.send t b) s = .next (s.enter t)))

/-- A SEND that passes every test is taken (R103, R114, R116, R182): the box leaves the backlog for the TAKEN set and reads
TAKEN, the own sequence rises, its pair is recorded and a cell is taken. Recording appends the pair at the tail: a full list
loses its oldest, and a pair already present only moves (that a full list then keeps its oldest is the model's choice,
assumption log entry 79). In DISCOVERY the frame stands in the transmit queue at its ordered place. In RUNNING (R104, R106)
it stands there where its target is sendable, and in the parked list with the limit of its class where it is not: stated for
a bound frame whose neighbor may be sent to, or has no record, a bar, a LAPSED tracker, a stale schedule or a hold; and, in
an empty store, for an uplink frame without a parent or with a first parent that may be sent to. -/
def Obligations.SendTaken : Prop :=
  (∀ (l : List (Addr × Byte)) (p : Addr × Byte), l.length ≤ 32 → l.Nodup →
    (p ∈ l → recordPair l p = l.filter (· ≠ p) ++ [p]) ∧
    (p ∉ l → l.length < 32 → recordPair l p = l ++ [p]) ∧
    (p ∉ l → l.length = 32 → recordPair l p = l.tail ++ [p])) ∧
  ∀ (t : Sixteenth) (b : Box) (cls : FrameClass) (s : State), s.port.backlog = [b] → s.port.txn = none → s.memOk →
    b ∉ s.port.lent → requestKind (s.port.body b) = some .send → s.radio.stopPending = false →
    s.radio.engine = .discovery ∨ s.radio.engine = .running →
    let r := s.port.body b
    let n := (byteAt r 10).toNat
    let d := word16 r 6
    let hop := (byteAt r 9).toNat
    1 ≤ n → n ≤ 96 → (byteAt r 8).toNat = cls.code → (if cls = .alarm then 0 < s.store.free else 4 < s.store.free) →
    ((1 ≤ d.toNat ∧ d.toNat ≤ 0xFEFF ∧ d ≠ s.req.settings.ownAddress ∧
        ¬(s.req.settings.gateway = true ∧ s.nbr.find d = none ∧ s.route.trail d = none)) ∨
      (d = 0xFFFE ∧ s.req.settings.gateway = false)) →
    let binding : Binding :=
      if d = 0xFFFE then .uplink
      else if (s.nbr.find d).isSome then .bound d
      else match s.route.trail d with
        | some e => .bound e.next
        | none => .uplink
    let f : FrameRec :=
      { origin := s.req.settings.ownAddress, destination := d, sequence := s.store.sequence, cls := cls
        hopLimit := if hop = 0 ∨ 15 < hop then s.req.settings.defaultHopLimit else hop
        payload := (r.drop 11).take n, binding := binding, total := 0, hops := 0, lastFail := none, backoff := none
        deadline := none, source := .originated b, serial := s.store.nextSerial }
    ∃ s', exec (.send t b) s = .next s' ∧ s'.now16 = t ∧ s'.port.backlog = [] ∧ s'.port.taken = s.port.taken ++ [b] ∧
      Memory.read s'.port.mem b.val = 0x02 ∧ s'.store.sequence = s.store.sequence + 1 ∧
      s'.store.nextSerial = s.store.nextSerial + 1 ∧
      s'.store.recent = recordPair s.store.recent (s.req.settings.ownAddress, s.store.sequence) ∧
      s'.req.settings = s.req.settings ∧ s'.port.flags = s.port.flags ∧ s'.radio.engine = s.radio.engine ∧
      s'.nbr.pins = s.nbr.pins ∧ s'.nbr.bars = s.nbr.bars ∧
      (s.radio.engine = .discovery → (∀ g ∈ s.store.queue ++ s.store.parked ++ s.store.staging ++ s.store.burst,
          g.serial ≠ s.store.nextSerial) →
        s'.store.queue = insertBy FrameRec.before f s.store.queue ∧ s'.store.parked = s.store.parked ∧
        s'.store.staging = s.store.staging ∧ s'.store.burst = s.store.burst ∧ s'.port.lent = s.port.lent) ∧
      (s.radio.engine = .running → (∀ g ∈ s.store.queue ++ s.store.parked ++ s.store.staging ++ s.store.burst,
          g.serial ≠ s.store.nextSerial) →
        let st := s.req.settings
        let limit := (match cls with
          | .alarm => st.parkAlarm
          | .control => st.parkControl
          | .bulk => st.parkBulk) * 32768 / (if st.quickDiscard then 8 else 1)
        let waits : FrameRec := { f with deadline := some (tickOf t + BitVec.ofNat 32 limit) }
        let opens (a : Addr) : Prop := ∃ r c x, s.openTo a r c x ∧ r.nextRendezvous t none = some x
        let shuts (a : Addr) : Prop := s.nbr.find a = none ∨ a ∈ s.nbr.bars ∨ ∃ r, s.nbr.find a = some r ∧
          (r.tracker.state = .lapsed ∨ r.stale = true ∨
            ∃ e, r.hold = some e ∧ (tickOf t - e).toInt < 0 ∧ cls ≠ .alarm)
        (∀ a, binding = .bound a →
          (opens a → f ∈ s'.store.queue) ∧ (shuts a → waits ∈ s'.store.parked)) ∧
        (binding = .uplink → s.store.queue = [] → s.store.parked = [] → s.store.burst = [] →
          (s.route.parents = [] → s'.store.queue = [] ∧ s'.store.parked = [waits]) ∧
          ∀ p ps, s.route.parents = p :: ps → opens p.address → s'.store.queue = [f] ∧ s'.store.parked = []))

/-- SET (R33, R183, R184). The tests in their order, each with its outcome and the index of its failing pair: the number of
pairs, known parameters, identity parameters outside HALTED, the own address, four data channels, the two marks, the
phase as configured and as in use. One that fails changes nothing but its box. One that passes stores every value as one
unit, the later of two pairs standing and a changed channel mask turning the survey off, and completes OK, or CLAMPED
with the indices of the clamped pairs; a pair that a later one supersedes counts by its own value (assumption log entry
42). That the effects, with the notices they raise, come before the SET's own outcome, in the order of completion serials, is
the model's choice (entry 78). Then what the changes call for, once each (R33, R69, R100, R117, R177, R184): the mask decided and the exclusions and
proposals gone, or fresh batches; the route review; the flow state; the trigger test; the record of a new own address and
the trails of that origin gone; the own listen placed afresh (R25), stated where nothing stands against it. A SET that
changes nothing calls for nothing. -/
def Obligations.SetRefusedOrApplied : Prop :=
  (∀ (t : Sixteenth) (b : Box) (s : State), b ∈ s.port.backlog → s.port.txn = none →
     requestKind (s.port.body b) = some .set →
     let ps := setPairs (s.port.body b)
     (∀ c d, s.setFailure ps = some (c, d) → exec (.set t b) s = .next ((s.enter t).finishBox b c d)) ∧
     (s.setFailure ps = none →
       exec (.set t b) s = .next (State.finish (((s.enter t).applySet ps).finishBox b
         (if s.clampedIndices ps = [] then .ok else .clamped)
         (if s.clampedIndices ps = [] then []
           else BitVec.ofNat 8 (s.clampedIndices ps).length :: s.clampedIndices ps)))) ∧
     (s.setFailure ps = none → s.port.backlog = [b] → s.memOk → b ∉ s.port.lent →
       ∃ s', exec (.set t b) s = .next s' ∧ s'.now16 = t ∧ s'.req.settings = s.setResult ps ∧ s'.port.backlog = [] ∧
         s'.radio.engine = s.radio.engine ∧ s'.port.flags = s.port.flags ∧ s'.nbr.pins = s.nbr.pins ∧ s'.nbr.bars = s.nbr.bars ∧
         Memory.read s'.port.mem b.val = 0x03 ∧
         Memory.read s'.port.mem (bodyAddr b + 1) = (if s.clampedIndices ps = [] then 0x00 else 0x01) ∧
         (s.clampedIndices ps ≠ [] →
           Memory.read s'.port.mem (bodyAddr b + 6) = BitVec.ofNat 8 (s.clampedIndices ps).length ∧
           ∀ i, i < (s.clampedIndices ps).length →
             Memory.read s'.port.mem (bodyAddr b + 7 + i) = (s.clampedIndices ps).getD i 0))) ∧
  (∀ (ps : List Pair) (s : State), s.work = {} →
     let old := s.req.settings
     let new := s.setResult ps
     let stored : State := { s with req := { s.req with settings := new } }
     let s' := s.applySet ps
     let number := ((s.nextOwnBeacon s.now).toNat / 2 ^ s.sched.beaconExponent % 256 + 4) % 256
     let decided : Option (Mask × Nat) :=
       match s.sched.pendingMask with
       | none => if new.channelMask = s.sched.mask then none else some (new.channelMask, number)
       | some (m, x) => if new.channelMask = m then some (m, x) else some (new.channelMask, number)
     let surveyEnds := new.channelMask ≠ old.channelMask ∨ (old.survey = true ∧ new.survey = false)
     let surveyBegins := old.survey = false ∧ new.survey = true
     let reviews := new.hopPenalty ≠ old.hopPenalty ∨ new.hysteresis ≠ old.hysteresis ∨ new.unsteady ≠ old.unsteady ∨
       new.gateway ≠ old.gateway
     (new = old → s' = s) ∧
     (surveyEnds → s'.sched = { s.sched with proposals := [], exclusions := [], pendingMask := decided }) ∧
     (¬surveyEnds → surveyBegins → s'.sched = { s.sched with
       exclusions := []
       batches := (dataChannels s.sched.mask s.sched.beaconChannel).map fun c =>
         { channel := c, countdown := 16, tally := 0 } }) ∧
     (¬surveyEnds → ¬surveyBegins → s'.sched = s.sched) ∧
     (new.ownAddress ≠ old.ownAddress →
       s'.nbr.find new.ownAddress = none ∧ ∀ e ∈ s'.route.trails, e.origin ≠ new.ownAddress) ∧
     (new.ownAddress = old.ownAddress →
       s'.nbr = s.nbr ∧ s'.route = (if reviews then stored.review.route else s.route) ∧
       s'.store.flow =
         (if new.holdMark = old.holdMark ∧ new.goMark = old.goMark then s.store.flow
          else match s.store.flow with
            | .go => if s.store.free ≤ new.holdMark then .hold else .go
            | .hold => if new.goMark ≤ s.store.free then .go else .hold) ∧
       (s.port.lent = [] →
         (new.triggerLevel = old.triggerLevel → s'.port.attention = s.port.attention) ∧
         (new.triggerLevel ≠ old.triggerLevel →
           (new.triggerLevel ≤ s.port.attention.count → s'.port.attention.reasons.trigger = true ∧
             (s.port.attention.mask.trigger = true → s'.port.attention.armed = false)) ∧
           (s.port.attention.count < new.triggerLevel → s'.port.attention.reasons = s.port.attention.reasons))) ∧
       (s.radio.engine = .running → s.radio.stopPending = false → s.recv.state = .idle → s.radio.op = none →
         stored.exponentInUse ≠ s.exponentInUse ∨ new.halfWindow ≠ old.halfWindow →
         let half := BitVec.ofNat 32 new.halfWindow
         ∀ x, stored.nextOwnListen (s.now + half) = some x →
           let n : Claim :=
             { kind := .ownListen, start := x - half, stop := some (x + half), channel := s.ownChannel x, owner := 0
               instant := x }
           (∀ c ∈ s.radio.timeline, c.kind = .ownListen ∨ c.kind.isLong = true ∨ n.overlaps c = false) →
           s'.radio.timeline
             = insertBy Claim.before n (s.radio.timeline.filter fun c => !(c.kind = .ownListen))))) ∧
  (∀ (ps : List Pair) (s : State),
     let st := ps.foldl Settings.putPair s.req.settings
     let remasked := st.channelMask ≠ s.req.settings.channelMask
     let last (i : Nat) (ids : List Nat) : Prop :=
       ∃ p, ps[i]? = some p ∧ p.id ∈ ids ∧ ∀ (j : Nat) (q : Pair), i < j → ps[j]? = some q → q.id ∉ ids
     let few (m : Mask) (c : Nat) : Prop := (dataChannels m c).length < 4
     let badAddress := (∃ p ∈ ps, p.id = 0x01) ∧ ¬(0x0001 ≤ st.ownAddress.toNat ∧ st.ownAddress.toNat ≤ 0xFEFF)
     let badMask := few st.channelMask st.beaconChannel ∨ few st.channelMask s.sched.beaconChannel
     let badMarks := st.goMark ≤ st.holdMark
     let badPhase := ∃ u, st.phase = .units u ∧ 2 ^ st.beatExponent ≤ 512 * u
     let badBeat := s.radio.engine ≠ .halted ∧ 2 ^ st.beatExponent ≤ 512 * s.sched.phase
     let fails (i : Nat) (c : OutcomeCode) : Prop := s.setFailure ps = some (c, [BitVec.ofNat 8 i])
     s.setResult ps = (if remasked then { st with survey := false } else st) ∧
     (∃ is : List Nat, s.clampedIndices ps = is.map (BitVec.ofNat 8) ∧ is.Pairwise (· < ·) ∧
       ∀ i, i ∈ is ↔ ∃ p, ps[i]? = some p ∧
         ((p.id = 0x03 ∧ 127 < p.value.toNat ∧ p.value ≠ 255) ∨ (p.id = 0x78 ∧ 63 < p.value.toNat) ∨
           (p.id = 0x70 ∧ p.value.toNat ∉ [1, 2, 4, 8, 16]) ∨ (p.id = 0x15 ∧ remasked ∧ p.value ≠ 0) ∨
           (∃ lo hi, paramForm p.id = some (.unsigned lo hi) ∧ (p.value.toNat < lo ∨ hi < p.value.toNat)) ∨
           ∃ lo hi, paramForm p.id = some (.signed lo hi) ∧ (p.value.toInt < lo ∨ hi < p.value.toInt))) ∧
     (ps.length = 0 ∨ 32 < ps.length → s.setFailure ps = some (.badreq, [])) ∧
     (1 ≤ ps.length → ps.length ≤ 32 →
       (∀ (i : Nat) (p : Pair), ps[i]? = some p → paramForm p.id = none →
         (∀ (j : Nat) (q : Pair), j < i → ps[j]? = some q → paramForm q.id ≠ none) → fails i .badvalue) ∧
       ((∀ p ∈ ps, paramForm p.id ≠ none) → s.radio.engine ≠ .halted →
         ∀ (i : Nat) (p : Pair), ps[i]? = some p → p.id = 0x01 ∨ p.id = 0x02 ∨ p.id = 0x03 →
           (∀ (j : Nat) (q : Pair), j < i → ps[j]? = some q → q.id ≠ 0x01 ∧ q.id ≠ 0x02 ∧ q.id ≠ 0x03) →
           fails i .wrongState) ∧
       ((∀ p ∈ ps, paramForm p.id ≠ none) →
         s.radio.engine = .halted ∨ (∀ p ∈ ps, p.id ≠ 0x01 ∧ p.id ≠ 0x02 ∧ p.id ≠ 0x03) →
         (badAddress → ∀ i, last i [0x01] → fails i .badvalue) ∧
         (¬badAddress → badMask →
           ∀ i, ((∃ p ∈ ps, p.id = 0x14) → last i [0x14]) → ((∀ p ∈ ps, p.id ≠ 0x14) → last i [0x13]) →
             fails i .badvalue) ∧
         (¬badAddress → ¬badMask → badMarks → ∀ i, last i [0x54, 0x55] → fails i .badvalue) ∧
         (¬badAddress → ¬badMask → ¬badMarks → badPhase → ∀ i, last i [0x03, 0x10] → fails i .wrongState) ∧
         (¬badAddress → ¬badMask → ¬badMarks → ¬badPhase → badBeat → ∀ i, last i [0x10] → fails i .wrongState) ∧
         (¬badAddress → ¬badMask → ¬badMarks → ¬badPhase → ¬badBeat → s.setFailure ps = none))))

/-- The settings table (R184): what a written value becomes, by parameter id, with its range and its reading. -/
def Obligations.SettingsTable : Prop :=
  ∀ (st : Settings) (v : BitVec 16),
    let w (id : Nat) : Settings := st.putPair { id := id, value := v }
    let range (lo hi : Nat) : Nat := max lo (min hi v.toNat)
    let dbm (lo hi : Int) : Int := max lo (min hi v.toInt)
    w 0x01 = { st with ownAddress := v } ∧ w 0x02 = { st with gateway := decide (v ≠ 0) } ∧
    w 0x03 = { st with phase := if v = 255 then .auto else .units (min v.toNat 127) } ∧
    w 0x10 = { st with beatExponent := range 9 16 } ∧ w 0x11 = { st with halfWindow := range 8 64 } ∧
    w 0x12 = { st with beaconExponent := range 16 20 } ∧ w 0x13 = { st with beaconChannel := range 0 15 } ∧
    w 0x14 = { st with channelMask := v } ∧ w 0x15 = { st with survey := decide (v ≠ 0) } ∧
    w 0x16 = { st with busyThreshold := dbm (-110) (-60) } ∧ w 0x17 = { st with exclusionHold := range 60 3600 } ∧
    w 0x18 = { st with censusInterval := range 60 3600 } ∧ w 0x19 = { st with censusSpan := range 2 32 } ∧
    w 0x1A = { st with discoverySpan := range 4 600 } ∧ w 0x1B = { st with supplyDebounce := range 1 60 } ∧
    w 0x20 = { st with slopeLimit := v.toNat } ∧ w 0x21 = { st with fastAnchorShift := range 0 7 } ∧
    w 0x22 = { st with fastDriftShift := range 0 7 } ∧ w 0x23 = { st with slowAnchorShift := range 0 7 } ∧
    w 0x24 = { st with slowDriftShift := range 0 7 } ∧ w 0x25 = { st with lockThreshold := range 1 255 } ∧
    w 0x26 = { st with lockCount := range 2 15 } ∧ w 0x27 = { st with holdoverEntry := range 1 120 } ∧
    w 0x28 = { st with holdoverLimit := range 10 3600 } ∧ w 0x30 = { st with admissionFloor := dbm (-120) (-40) } ∧
    w 0x31 = { st with probationTime := range 10 3600 } ∧ w 0x32 = { st with evictionAge := range 60 43200 } ∧
    w 0x33 = { st with holdLifetime := range 1 60 } ∧ w 0x40 = { st with hopPenalty := range 0 64 } ∧
    w 0x41 = { st with hysteresis := range 0 255 } ∧ w 0x42 = { st with unsteady := range 1 15 } ∧
    w 0x43 = { st with trailLifetime := range 0 43200 } ∧ w 0x50 = { st with parkAlarm := range 1 60 } ∧
    w 0x51 = { st with parkControl := range 1 600 } ∧ w 0x52 = { st with parkBulk := range 1 3600 } ∧
    w 0x53 = { st with quickDiscard := decide (v ≠ 0) } ∧ w 0x54 = { st with holdMark := range 1 62 } ∧
    w 0x55 = { st with goMark := range 2 63 } ∧ w 0x60 = { st with burstLimit := range 1 4 } ∧
    w 0x61 = { st with perHopLimit := range 1 8 } ∧ w 0x62 = { st with totalLimit := range 1 16 } ∧
    w 0x68 = { st with refreshAge := range 2 60 } ∧
    w 0x70 = { st with triggerLevel :=
      if 16 ≤ v.toNat then 16 else if 8 ≤ v.toNat then 8 else if 4 ≤ v.toNat then 4 else if 2 ≤ v.toNat then 2 else 1 } ∧
    w 0x71 = { st with reportTimeout := range 1 1000 } ∧ w 0x78 = { st with noticeMask := v.setWidth 6 } ∧
    w 0x79 = { st with defaultHopLimit := range 1 15 }

/-! ## Supply -/

/-- A level change of the SUPPLY input starts a debounce run toward a level other than the mode's, and ends the one in
progress when the level returns to the mode's; the end of a run changes the supply mode to its level, in RESERVE ends a
census, raises the SUPPLY notice with the new mode where its code is enabled, and places the own listen afresh under the
exponent now in use where that has changed; a run that has not lasted its time runs on (R24, R25, R39, R40). The own listen
is stated while its window is not open and nothing stands against the claim; the notice, while no plan can be lost. An event
that is not due only moves the clock (the model's choice, assumption log entry 2). -/
def Obligations.SupplyDebounced : Prop :=
  (∀ (t : Sixteenth) (high : Bool) (s : State),
     exec (.supplyLevelChange t high) s = .next
       (if high = s.sched.supplyHigh then s.enter t
       else { s.enter t with sched := { s.sched with
         supplyHigh := high
         debounce :=
           if (high = true ∧ s.sched.supplyMode = .normal) ∨ (high = false ∧ s.sched.supplyMode = .reserve) then none
           else some
             { high := high, start := tickOf t
               due := tickOf t + BitVec.ofNat 32 (s.req.settings.supplyDebounce * 32768) } } })) ∧
  (∀ (t : Sixteenth) (s : State),
     ((∀ r, s.sched.debounce = some r → (tickOf t - r.due).toInt < 0) →
       exec (.supplyDebounceEnd t) s = .next (s.enter t)) ∧
     ∀ r, s.sched.debounce = some r → 0 ≤ (tickOf t - r.due).toInt →
       ∃ s', exec (.supplyDebounceEnd t) s = .next s' ∧ s'.now16 = t ∧
         s'.sched.supplyMode = (if r.high then .normal else .reserve) ∧ s'.sched.debounce = none ∧
         s'.sched.supplyHigh = s.sched.supplyHigh ∧
         s'.sched.long = (if r.high = false ∧ s.sched.long.map (·.discovery) = some false then none else s.sched.long) ∧
         s'.sched.phase = s.sched.phase ∧ s'.sched.mask = s.sched.mask ∧ s'.sched.epoch = s.sched.epoch ∧
         s'.sched.pendingMask = s.sched.pendingMask ∧ s'.sched.beaconExponent = s.sched.beaconExponent ∧
         s'.radio.engine = s.radio.engine ∧ s'.route.trails = s.route.trails ∧ s'.store.recent = s.store.recent ∧
         s'.port.backlog = s.port.backlog ∧ s'.port.taken = s.port.taken ∧ s'.port.flags = s.port.flags ∧
         s'.req.settings = s.req.settings ∧
         let m : SupplyMode := if r.high then .normal else .reserve
         let there : State := { s.enter t with sched := { s.sched with supplyMode := m, debounce := none } }
         let own (x : State) : List Claim := x.radio.timeline.filter fun c => c.kind = .ownListen
         let last : Tick := tickOf t + BitVec.ofNat 32 s.req.settings.halfWindow - 1
         (there.exponentInUse = (if r.high then s.req.settings.beatExponent else min (s.req.settings.beatExponent + 2) 16)) ∧
         (there.exponentInUse = s.exponentInUse → own s' = own s) ∧
         (there.exponentInUse ≠ s.exponentInUse → s.recv.state ≠ .listening →
           (s.recv.state = .receiving → s.recv.record ≠ none) →
           (∀ o, s.radio.op = some o → o.purpose ≠ .ownListen ∧ o.purpose ≠ .survey) →
           (∀ o, s.radio.waiting = some o → o.purpose ≠ .ownListen) → there.followsFree (tickOf t) last →
           own s' = (there.followingListen (tickOf t) last).toList) ∧
         (s.req.settings.noticeMask.getLsbD 4 = false → s.store.queue = [] → s.store.burst = [] →
           s'.req.notices = s.req.notices) ∧
         (s.req.settings.noticeMask.getLsbD 4 = true → s.store.queue = [] → s.store.burst = [] →
           (s.port.lent = [] → s.req.notices.length < 8 →
             s'.req.notices = s.req.notices ++ [{ event := .supply m, tick := tickOf t }]) ∧
           ∀ b bs, s.port.lent = b :: bs → s.memOk →
             s'.port.lent = bs.filter (· ≠ b) ∧ Memory.read s'.port.mem b.val = 0x05 ∧
             Memory.read s'.port.mem (bodyAddr b) = 0x81 ∧ Memory.read s'.port.mem (bodyAddr b + 1) = 5 ∧
             Memory.read s'.port.mem (bodyAddr b + 10) = (if r.high then 0 else 1)))

/-! ## The receiver -/

/-- The own listen window opens at the start of its claim's window: a LISTEN is issued over it and the receiver is LISTENING.
An open segment is cut for it, counted up to the cut or to the end its window had before (R159), and so is a refresh listen
open without a reception, with its claim (R156, R157); the LISTEN then waits for the report of the cut one, as at most one
operation is outstanding (R152; the model's choice, assumption log entry 16). Where the radio is held, or the window is over, the claim is lost: no LISTEN, one more missed own beat, and the claim of
the next own beat on the timeline (R12, R25, R157, R158), stated where no other claim stands against that one. A SEND still
unanswered counts as a hold (the model's choice, assumption log entry 15). The next own listen is that of the first own
beat that is no beacon instant, on its beat channel under the current mask (R24, R26, R28). An event that is not due only
moves the clock (the model's choice, entry 2). -/
def Obligations.OwnListenOpens : Prop :=
  (∀ (t : Sixteenth) (s : State),
    let now := tickOf t
    ((s.enter t).dueOwnListen = none → exec (.ownListenWindowOpen t) s = .next (s.enter t)) ∧
    ∀ (c : Claim) (e : Tick), (s.enter t).dueOwnListen = some c → c.stop = some e →
      (0 ≤ (e - now).toInt → s.radio.waiting = none → s.planner.tx = .idle → s.recv.holds = false →
        let o : Operation :=
          { kind := .listen, purpose := .ownListen, channel := c.channel, start := c.start, stop := e
            start16 := ofTick c.start, bytes := [], started := none, due := e, cut := false }
        let listens : Recv :=
          { state := .listening, beat := c.instant, channel := c.channel, record := none, ack := none }
        (s.radio.op = none →
          exec (.ownListenWindowOpen t) s
            = .next { s.enter t with radio := { s.radio with op := some o }, recv := listens }) ∧
        ∀ q, s.radio.op = some q → q.kind = .listen → q.started = none →
          let f := if 0 ≤ (now - q.stop).toInt then q.stop else now
          (q.cut = true →
            exec (.ownListenWindowOpen t) s
              = .next { s.enter t with radio := { s.radio with waiting := some o }, recv := listens }) ∧
          (q.cut = false → q.purpose = .segment → q.orphan = false →
            exec (.ownListenWindowOpen t) s = .next
              { s.enter t with
                radio := { s.radio with op := some { q with stop := f, due := f, cut := true }, waiting := some o }
                sched := { s.sched with long := s.sched.long.map fun l =>
                  { l with counted := l.counted + (f - q.start).toInt.toNat } }
                recv := listens }) ∧
          (q.cut = false → ∀ a, q.purpose = .refresh a →
            (∃ v ∈ s.radio.timeline, v.kind = .refreshListen ∧ v.owner = a) →
            exec (.ownListenWindowOpen t) s = .next
              { s.enter t with
                radio := { s.radio with
                  op := some { q with stop := f, due := f, cut := true }, waiting := some o
                  timeline := s.radio.timeline.filter fun v => !(v.kind = .refreshListen && v.owner = a) }
                recv := listens })) ∧
      ((e - now).toInt < 0 ∨ s.planner.tx ≠ .idle ∨ s.recv.holds = true ∨ s.radio.waiting ≠ none ∨
          (∃ o, s.radio.op = some o ∧ o.cut = false ∧ o.purpose ≠ .segment) →
        (∀ o, s.radio.op = some o → o.kind ≠ .listen) → s.followsFree now c.instant →
        exec (.ownListenWindowOpen t) s = .next
          { s.enter t with
            radio := { s.radio with timeline := s.listenFollows now c.instant }
            port := { s.port with counters := { s.port.counters with
              missedBeats := min 65535 (s.port.counters.missedBeats + 1) } } })) ∧
  ∀ (lo : Tick) (s : State),
    let n := if s.sched.supplyMode = .normal then s.req.settings.beatExponent
      else min (s.req.settings.beatExponent + 2) 16
    let own (x : Tick) : Prop := x.toNat % 2 ^ n = 512 * s.sched.phase % 2 ^ n
    let beacon (x : Tick) : Prop :=
      x.toNat % 2 ^ s.sched.beaconExponent = 512 * s.sched.phase % 2 ^ s.sched.beaconExponent
    (s.sched.beaconExponent ≤ n → s.nextOwnListen lo = none) ∧
    (n < s.sched.beaconExponent → s.sched.beaconExponent ≤ 23 →
      ∃ x, s.nextOwnListen lo = some x ∧ own x ∧ ¬beacon x ∧
        ∀ y : Tick, (y - lo).toNat < (x - lo).toNat → own y → beacon y) ∧
    (∃ cs : List Nat, cs.Pairwise (· < ·) ∧
      (∀ c, c ∈ cs ↔ c < 16 ∧ s.sched.mask.getLsbD c = true ∧ c ≠ s.sched.beaconChannel) ∧
      s.ownChannel lo = cs.getD ((s.req.settings.ownAddress.toNat + 3 * (lo.toNat / 512 % 65536)) % cs.length) 0)

/-- A frame start in an open window, both ends included: the response falls due 150 ticks on, and the receiver is
RECEIVING or the sender TAKING by whom the LISTEN serves (R12, R15, R19, R152). Stated where no other claim's window
has begun. An event that is not due only moves the clock (the model's choice, assumption log entry 2). -/
def Obligations.FrameStartHeard : Prop :=
  ∀ (t : Sixteenth) (s : State),
    (s.radio.op = none → exec (.frameStartIndication t) s = .next (s.enter t)) ∧
    ∀ o : Operation, s.radio.op = some o →
      let now := tickOf t
      let heard : Operation := { o with started := some now, due := now + 150 }
      let radio : Radio := { s.radio with op := some heard }
      (o.kind ≠ .listen ∨ o.started ≠ none ∨ o.cut = true ∨ (now - o.start).toInt < 0 ∨ (o.stop - now).toInt < 0 →
        exec (.frameStartIndication t) s = .next (s.enter t)) ∧
      (o.kind = .listen → o.started = none → o.cut = false → 0 ≤ (now - o.start).toInt → 0 ≤ (o.stop - now).toInt →
        (∀ c ∈ s.radio.timeline, (now - c.start).toInt < 0 ∨ c.kind.isLong = true ∨ c.purpose = some o.purpose) →
        (o.purpose = .ownListen ∨ o.purpose = .continuation →
          exec (.frameStartIndication t) s
            = .next { s.enter t with radio := radio, recv := { s.recv with state := .receiving } }) ∧
        (o.purpose = .ackWait →
          exec (.frameStartIndication t) s
            = .next { s.enter t with radio := radio, planner := { s.planner with tx := .taking } }) ∧
        (o.purpose = .segment ∨ (∃ a, o.purpose = .refresh a) →
          exec (.frameStartIndication t) s = .next { s.enter t with radio := radio }))

/-- The end of a frame heard in an own listen window or in a continuation (R12, R13, R19, R147, R152): the operation is over;
a DATA (in a continuation, of the rendezvous's transmitter) with an answer turns the receiver round with its ACK built; any
other frame, or a delivery too late for the ACK, leaves it IDLE. Lateness is compared in ticks (assumption log entry
18). -/
def Obligations.ReceivedFrameEnds : Prop :=
  (∀ (t : Sixteenth) (f : RxFrame) (o : Operation) (s : State),
     s.radio.op = some o → o.purpose = .ownListen → o.cut = false → o.started ≠ none → (tickOf t - o.due).toInt ≤ 131 →
     let base := (s.enter t).answered.closeWindow
     ∃ s', exec (.ownListenFrameEnd t f) s = .next s' ∧ s'.now16 = t ∧ s'.radio.op = none ∧ s'.radio.strike = false ∧
       s'.radio.engine = s.radio.engine ∧ s'.port.flags = s.port.flags ∧
       ((∀ d, readFrame f.bytes ≠ some (.data d)) → s'.recv = {}) ∧
       (∀ d, readFrame f.bytes = some (.data d) → (base.relay d f).1 = none → s'.recv = {}) ∧
       (∀ d a, readFrame f.bytes = some (.data d) → (base.relay d f).1 = some a →
         (tickOf t - tickOf (ackStart f d)).toInt ≤ 0 → s.answeredWith s' d f a) ∧
       (∀ d, readFrame f.bytes = some (.data d) → 0 < (tickOf t - tickOf (ackStart f d)).toInt → s'.recv = {})) ∧
  (∀ (t : Sixteenth) (f : RxFrame) (o : Operation) (s : State),
     s.radio.op = some o → o.purpose = .continuation → o.cut = false → o.started ≠ none →
     (tickOf t - o.due).toInt ≤ 131 →
     let base := (s.enter t).answered
     let known (d : DataFrame) : Prop := ∃ v, s.recv.record = some v ∧ v.transmitter = d.transmitter
     ∃ s', exec (.continuingFrameEnd t f) s = .next s' ∧ s'.now16 = t ∧ s'.radio.op = none ∧ s'.radio.strike = false ∧
       s'.radio.engine = s.radio.engine ∧ s'.port.flags = s.port.flags ∧
       ((∀ d, readFrame f.bytes = some (.data d) → ¬known d) → s'.recv = {}) ∧
       (∀ d, readFrame f.bytes = some (.data d) → (base.relay d f).1 = none → s'.recv = {}) ∧
       (∀ d a, readFrame f.bytes = some (.data d) → known d → (base.relay d f).1 = some a →
         (tickOf t - tickOf (ackStart f d)).toInt ≤ 0 → s.answeredWith s' d f a) ∧
       (∀ d, readFrame f.bytes = some (.data d) → 0 < (tickOf t - tickOf (ackStart f d)).toInt → s'.recv = {}))

/-- The relay decision on a DATA that passes no address test, or whose destination does not resolve: no answer (R140).
Otherwise a new one is answered (R142, R143, R144, R151): NOROUTE without a direction; one to be forwarded is dropped at
hop limit 0, refused FULL without a cell, or stored with the hop limit one lower: in the parked list where the engine is
RUNNING and the frame has no sendable target, otherwise in the transmit queue (R104); one for this node is written into the
oldest lent box, staged, or refused FULL. An accepted frame's pair is recorded, and its answer is the own flow state after
it. Every upward one teaches a trail (R95): in place of the origin's, as a new one, or in a full table in place of the one
refreshed earliest, the lower origin between equals; that the table stands in ascending order of origin is the model's choice
(assumption log entry 24). One from the first parent poisons it (R91). An answer of any kind carries the own flow state as
it stands after the settlement, the burst limit on GO and a grant of 1 otherwise, the exponent in use and the epoch (R13,
R146). What recording does to the list is `SendTaken`'s; the answers to frames of the list are `DuplicateAnswered`'s. -/
def Obligations.RelayRefusals : Prop :=
  ∀ (d : DataFrame) (f : RxFrame) (s : State),
    let own := s.req.settings.ownAddress
    let st := s.req.settings
    let heard := d.nextHop = own ∧ d.transmitter ≠ own ∧ d.transmitter ∉ s.nbr.bars
    let c := s.port.counters
    let more (n : Nat) : Nat := min 65535 (n + 1)
    let goes := s.resolve d.destination (some d.transmitter)
    let s' := (s.relay d f).2
    let answers (k : AckKind) : Prop := (s.relay d f).1.map (·.kind) = some k
    let flowAt (free : Nat) : Flow := match s.store.flow with
      | .go => if free ≤ st.holdMark then .hold else .go
      | .hold => if st.goMark ≤ free then .go else .hold
    let kindOf (x : Flow) : AckKind := if x = .go then .go else .hold
    let refused : Prop := answers .full ∧ (s.relay d f).1.map (·.grant) = some 1 ∧
      s'.port.counters.refusalsSent = more c.refusalsSent ∧ s'.store = s.store
    let frame (hop : Nat) (b : Binding) : FrameRec :=
      { origin := d.origin, destination := d.destination, sequence := d.sequence, cls := d.cls, hopLimit := hop
        payload := d.payload, binding := b, total := 0, hops := 0, lastFail := none, backoff := none, deadline := none
        source := .relayed d.transmitter f.signal (tickOf f.capture), serial := s.store.nextSerial }
    let taken : Prop := s'.store.nextSerial = s.store.nextSerial + 1 ∧
      s'.store.recent = recordPair s.store.recent (d.origin, d.sequence) ∧
      s'.store.flow = flowAt (s.store.free - 1) ∧ answers (kindOf (flowAt (s.store.free - 1)))
    (∀ a, (s.relay d f).1 = some a →
      a.flow = s'.store.flow ∧ a.grant = (if a.kind = .go then st.burstLimit else 1) ∧
      a.exponent = (if s.sched.supplyMode = .normal then st.beatExponent else min (st.beatExponent + 2) 16) ∧
      a.epoch = s.sched.epoch) ∧
    (¬heard → (s.relay d f).1 = none ∧ s'.port = s.port ∧ s'.store = s.store) ∧
    (heard → goes = .invalid →
      (s.relay d f).1 = none ∧ s'.port.counters.noroute = more c.noroute ∧ s'.store = s.store) ∧
    (heard → s.store.knows d.origin d.sequence = false →
      (goes = .noRoute →
        answers .noroute ∧ (s.relay d f).1.map (·.grant) = some 1 ∧ s'.port.counters.noroute = more c.noroute ∧
        s'.port.counters.refusalsSent = more c.refusalsSent ∧ s'.store = s.store) ∧
      (∀ b : Binding, (goes = .uplink ∧ b = .uplink) ∨ (∃ a, goes = .bound a ∧ b = .bound a) →
        (d.hopLimit = 0 →
          answers (kindOf s.store.flow) ∧ s'.port.counters.hopLimit = more c.hopLimit ∧
          s'.store = { s.store with recent := recordPair s.store.recent (d.origin, d.sequence) }) ∧
        (d.hopLimit ≠ 0 → s.store.grants d.cls = false → refused) ∧
        (d.hopLimit ≠ 0 → s.store.grants d.cls = true →
          (∀ g ∈ s.store.queue ++ s.store.parked ++ s.store.staging ++ s.store.burst, g.serial ≠ s.store.nextSerial) →
          let stored := frame (d.hopLimit - 1) b
          let sendable := ((s.takeSignal d.transmitter f.signal).takeSerial.target stored).1 ≠ none
          let limit := (match d.cls with
            | .alarm => st.parkAlarm
            | .control => st.parkControl
            | .bulk => st.parkBulk) * 32768 / (if st.quickDiscard then 8 else 1)
          taken ∧
          (s.radio.engine ≠ .running ∨ sendable →
            s'.store.queue = insertBy FrameRec.before stored s.store.queue ∧ s'.store.parked = s.store.parked) ∧
          (s.radio.engine = .running → ¬sendable →
            s'.store.parked = insertBy FrameRec.before
              { stored with deadline := some (s.now + BitVec.ofNat 32 limit) } s.store.parked ∧
            s'.store.queue = s.store.queue) ∧
          (∀ a, b = .bound a → s.nbr.find a = none ∨ a ∈ s.nbr.bars → ¬sendable))) ∧
      (goes = .toHost →
        (∀ b bs, s.port.lent = b :: bs → s.memOk →
          answers (kindOf s.store.flow) ∧ s'.port.counters.delivered = more c.delivered ∧
          s'.port.lent = bs.filter (· ≠ b) ∧ Memory.read s'.port.mem b.val = 0x05 ∧
          s'.store = { s.store with recent := recordPair s.store.recent (d.origin, d.sequence) }) ∧
        (s.port.lent = [] →
          (s.store.staging.length < 8 → s.store.grants d.cls = true →
            taken ∧ s'.store.staging = s.store.staging ++ [frame d.hopLimit .localDelivery]) ∧
          (8 ≤ s.store.staging.length ∨ s.store.grants d.cls = false → refused)))) ∧
    (heard → goes ≠ .invalid →
      let teaches := (goes = .uplink ∨ (goes = .toHost ∧ d.destination = 0xFFFE)) ∧
        (s.nbr.find d.transmitter).isSome = true ∧ d.origin ≠ own
      (teaches → s'.route.trails.find? (fun e => e.origin = d.origin)
        = some { origin := d.origin, next := d.transmitter, refreshed := s.now }) ∧
      (teaches →
        let lesson : Trail := { origin := d.origin, next := d.transmitter, refreshed := s.now }
        let old := s.route.trails
        let without (o : Addr) : List Trail := old.filter fun e => e.origin ≠ o
        let years (e : Trail) : Nat := (s.now - e.refreshed).toNat
        ((∃ e ∈ old, e.origin = d.origin) → s'.route.trails = insertBy Trail.before lesson (without d.origin)) ∧
        ((∀ e ∈ old, e.origin ≠ d.origin) →
          (old.length < 512 → s'.route.trails = insertBy Trail.before lesson old) ∧
          (512 ≤ old.length → ∃ v ∈ old, s'.route.trails = insertBy Trail.before lesson (without v.origin) ∧
            ∀ e ∈ old, years e < years v ∨ (years e = years v ∧ v.origin.toNat ≤ e.origin.toNat)))) ∧
      (¬teaches → s'.route.trails = s.route.trails) ∧
      (goes = .uplink → s.route.parents.head?.map (·.address) = some d.transmitter →
        (∀ p ∈ s'.route.parents, p.address ≠ d.transmitter) ∧
        ∀ r, s'.nbr.find d.transmitter = some r → r.poisoned = true))

/-- A DATA of the recent list that passes the address tests is answered with the own flow state; it is not stored, it leaves
the list and its order alone, needs no cell and counts as a duplicate (R115). The other fields of its answer are those of
every answer: the burst limit on GO and a grant of 1 on HOLD, the exponent in use and the epoch. -/
def Obligations.DuplicateAnswered : Prop :=
  ∀ (d : DataFrame) (f : RxFrame) (s : State),
    d.nextHop = s.req.settings.ownAddress → d.transmitter ≠ s.req.settings.ownAddress → d.transmitter ∉ s.nbr.bars →
    s.resolve d.destination (some d.transmitter) ≠ .invalid → (d.origin, d.sequence) ∈ s.store.recent →
    let st := s.req.settings
    (s.relay d f).1 = some
      { kind := if s.store.flow = .go then .go else .hold
        flow := s.store.flow
        grant := if s.store.flow = .go then st.burstLimit else 1
        exponent := if s.sched.supplyMode = .normal then st.beatExponent else min (st.beatExponent + 2) 16
        epoch := s.sched.epoch } ∧
    (s.relay d f).2.store = s.store ∧
    (s.relay d f).2.port.counters.duplicates = min 65535 (s.port.counters.duplicates + 1)

/-- ACK_START sends the built ACK on the rendezvous channel at its start; ACK_SENT: after a GO to a DATA with the more
flag and fewer than four frames the receiver listens on for 12 ticks from the ACK's end, unless the report came too
late; otherwise it is IDLE and the record goes (R13, R19, R139, R152). With an operation outstanding the ACK would wait
for its report (entry 16). An event that is not due only moves the clock (the model's choice, assumption log entry 2).
Lateness is compared in ticks (entry 18). -/
def Obligations.AckSentAndContinued : Prop :=
  (∀ (t : Sixteenth) (s : State),
     (s.recv.state ≠ .turning ∨ s.recv.ack = none → exec (.ackStart t) s = .next (s.enter t)) ∧
     ∀ a, s.recv.state = .turning → s.recv.ack = some a →
       ((tickOf t - tickOf a.start).toInt < 0 → exec (.ackStart t) s = .next (s.enter t)) ∧
       (0 ≤ (tickOf t - tickOf a.start).toInt →
         let stop := tickOf (a.start + BitVec.ofNat 36 (16 * airtime a.bytes.length))
         let o : Operation :=
           { kind := .send, purpose := .ackSend, channel := s.recv.channel, start := tickOf a.start, stop := stop
             start16 := a.start, bytes := a.bytes, started := none, due := stop, cut := false }
         exec (.ackStart t) s = .next
           { s.enter t with
             radio := if s.radio.op = none then { s.radio with op := some o } else { s.radio with waiting := some o }
             recv := { s.recv with state := .answering } })) ∧
  (∀ (t : Sixteenth) (o : Operation) (s : State),
     s.radio.op = some o → o.purpose = .ackSend → o.cut = false → (tickOf t - o.due).toInt ≤ 131 →
     let continues := ∃ v, s.recv.record = some v ∧ v.lastAnswer = .go ∧ v.lastMore = true ∧ v.frames < 4
     (continues → (tickOf t - o.stop).toInt ≤ 0 →
       let l : Operation :=
         { kind := .listen, purpose := .continuation, channel := s.recv.channel, start := o.stop, stop := o.stop + 12
           start16 := ofTick o.stop, bytes := [], started := none, due := o.stop + 12, cut := false }
       exec (.ackSent t) s = .next
         { s.enter t with
           radio := { s.radio with strike := false, op := some l }
           recv := { s.recv with state := .continuing, ack := none } }) ∧
     (¬continues ∨ 0 < (tickOf t - o.stop).toInt →
       exec (.ackSent t) s = .next
         { s.enter t with radio := { s.radio with op := none, strike := false }, recv := {} }))

/-- CONTINUING_EMPTY and OWN_LISTEN_EMPTY: the empty window ends with the receiver IDLE. While the survey is on, an own listen
window is followed by a SENSE on its channel, which holds the radio for the same claim (R12, R19, R29, R155, R157; that
the claim stays until its end is assumption log entry 51); otherwise the claim of the next own listen follows, stated
where nothing stands against it (R25). The report of a LISTEN that was cut, in time, clears the strike flag (R153) and
leads to the operation that waited for it, while a LISTEN's window lasts and a SEND's start has not passed; otherwise that
is not carried out, and what it served is over (R152; the model's choice, assumption log entry 16). -/
def Obligations.EmptyWindowsEnd : Prop :=
  (∀ (t : Sixteenth) (o : Operation) (s : State),
    s.radio.op = some o → o.cut = false → o.started = none → 0 ≤ (tickOf t - o.stop).toInt →
    (tickOf t - o.due).toInt ≤ 131 →
    let sense : Operation :=
      { kind := .sense, purpose := .survey, channel := s.recv.channel, start := tickOf t, stop := tickOf t
        start16 := t, bytes := [], started := none, due := tickOf t, cut := false }
    (o.purpose = .continuation →
      exec (.continuingEmpty t) s = .next
        { s.enter t with radio := { s.radio with op := none, strike := false }, recv := {} }) ∧
    (o.purpose = .ownListen →
      (∃ s', exec (.ownListenEmpty t) s = .next s' ∧ s'.recv = {} ∧
        s'.radio.op = (if s.req.settings.survey then some sense else none) ∧
        s'.calm = { s.calm with now16 := t, strike := false }) ∧
      (s.req.settings.survey = true →
        (∀ x ∈ s.radio.timeline, x.kind = .ownListen ∨ x.kind.isLong = true ∨ (tickOf t - x.start).toInt < 0) →
        let s' : State :=
          { s.enter t with radio := { s.radio with op := some sense, strike := false }, recv := {} }
        exec (.ownListenEmpty t) s = .next s' ∧
        ∀ x ∈ s.radio.timeline, x.kind = .ownListen → 0 ≤ (tickOf t - x.start).toInt → x.holding s' = some .sense) ∧
      (s.req.settings.survey = false → s.followsFree (tickOf t) s.recv.beat →
        exec (.ownListenEmpty t) s = .next
          { s.enter t with
            radio := { s.radio with
              op := none, strike := false, timeline := s.listenFollows (tickOf t) s.recv.beat }
            recv := {} }))) ∧
  ∀ (t : Sixteenth) (o : Operation) (report : Instr) (s : State),
    s.radio.op = some o → o.cut = true → (tickOf t - o.due).toInt ≤ 131 →
    (o.purpose = .ownListen ∧ report = .ownListenEmpty t) ∨
        ((∃ a, o.purpose = .refresh a) ∧ report = .refreshListenEnd t none) ∨
        (o.purpose = .segment ∧ report = .listenSegmentEnd t none) →
    let now := tickOf t
    let answered : Radio := { s.radio with op := none, strike := false, waiting := none }
    (s.radio.waiting = none → exec report s = .next { s.enter t with radio := answered }) ∧
    ∀ w, s.radio.waiting = some w →
      ((w.kind = .listen ∧ 0 ≤ (w.stop - now).toInt) ∨
          (w.kind ≠ .listen ∧ w.purpose ≠ .burstData ∧ 0 ≤ (w.start - now).toInt) →
        exec report s = .next { s.enter t with radio := { answered with op := some w } }) ∧
      (w.kind = .listen → 0 < (now - w.stop).toInt →
        (∀ a, w.purpose = .refresh a →
          exec report s = .next
            { s.enter t with radio := { answered with
              timeline := s.radio.timeline.filter fun c => !(c.kind = .refreshListen && c.owner = a) } }) ∧
        (w.purpose = .ownListen → s.followsFree now s.recv.beat →
          exec report s = .next
            { s.enter t with
              radio := { answered with timeline := s.listenFollows now s.recv.beat }
              recv := {}
              port := { s.port with counters := { s.port.counters with
                missedBeats := min 65535 (s.port.counters.missedBeats + 1) } } })) ∧
      (w.purpose = .burstData → w.kind ≠ .listen →
        (0 ≤ (w.start - now).toInt → (∀ p, s.planner.plan = some p → p.evicted = false) →
          exec report s = .next { s.enter t with radio := { answered with op := some w } }) ∧
        (0 < (now - w.start).toInt →
          ∃ s', exec report s = .next s' ∧ s'.planner.tx = .idle ∧ s'.radio.op = none ∧
            s'.steady = { (s.enter t).steady with strike := false }))

/-! ## Survey, mask and beacons -/

/-- SENSE_REPORT (R29, R30): a report is counted in its channel's batch, busy when the energy is above the threshold; the last
of a batch opens a fresh one and, at a score of 10 or more on a channel not yet excluded, excludes the channel or leaves
the proposal standing for want of room. The own-listen claim that the SENSE was made within gives way to the next (R25,
entry 51), stated where nothing stands against that one. -/
def Obligations.SenseReportCounted : Prop :=
  ∀ (t : Sixteenth) (energy : BitVec 8) (o : Operation) (s : State),
    s.radio.op = some o → o.purpose = .survey → o.cut = false → (tickOf t - o.due).toInt ≤ 131 →
    let within := s.radio.timeline.find? fun c => c.kind = .ownListen && decide (0 ≤ (tickOf t - c.start).toInt)
    let line : List Claim := match within with
      | some c => s.listenFollows (tickOf t) c.instant
      | none => s.radio.timeline
    (∀ c, within = some c → s.followsFree (tickOf t) c.instant) →
    let base : State := { s.enter t with radio := { s.radio with op := none, strike := false, timeline := line } }
    let batch := s.sched.batches.find? fun b => b.channel = o.channel
    let put (n : SurveyBatch) : List SurveyBatch := s.sched.batches.map fun b => if b.channel = o.channel then n else b
    (s.req.settings.survey = false ∨ batch = none → exec (.senseReport t energy) s = .next base) ∧
    ∀ b, s.req.settings.survey = true → batch = some b →
      let score := b.tally + if s.req.settings.busyThreshold < energy.toInt then 1 else 0
      let fresh := put { channel := o.channel, countdown := 16, tally := 0 }
      let others := s.sched.proposals.filter fun p => p.channel ≠ o.channel
      (2 ≤ b.countdown →
        exec (.senseReport t energy) s = .next
          { base with sched := { s.sched with
              batches := put { b with countdown := b.countdown - 1, tally := score } } }) ∧
      (b.countdown ≤ 1 → (score < 10 ∨ ∃ e ∈ s.sched.exclusions, e.channel = o.channel) →
        exec (.senseReport t energy) s
          = .next { base with sched := { s.sched with batches := fresh, proposals := others } }) ∧
      (b.countdown ≤ 1 → 10 ≤ score → (∀ e ∈ s.sched.exclusions, e.channel ≠ o.channel) →
        let rest := maskWithout s.sched.decided o.channel
        ((dataChannels rest s.sched.beaconChannel).length < 4 →
          exec (.senseReport t energy) s = .next
            { base with sched := { s.sched with
                batches := fresh, proposals := others ++ [{ channel := o.channel, score := score }] } }) ∧
        (4 ≤ (dataChannels rest s.sched.beaconChannel).length →
          exec (.senseReport t energy) s = .next (State.decideMask
            { base with sched := { s.sched with
                batches := fresh, proposals := others
                exclusions := s.sched.exclusions ++ [{ channel := o.channel, holdEnd := none }] } } rest)))

/-- EXCLUSION_HOLD_EXPIRY (R31, R32): the channel returns to the decided mask, and the standing proposal of highest score,
the lower channel between equals, takes the room if there is room for it, all in one mask change; a channel that the
configured mask leaves out only leaves the exclusion set (R33, assumption log entry 50). A mask change decided (R34) is
dropped when it is the decided mask already, and else staged, in place of the pending mask if there is one, for the number
of the next own beacon instant plus 4. An event that is not due only moves the clock (the model's choice, entry 2). -/
def Obligations.ExclusionHoldEnds : Prop :=
  (∀ (t : Sixteenth) (c : Fin 16) (s : State),
    let held := ∃ e ∈ s.sched.exclusions, e.channel = c.val ∧ ∃ h, e.holdEnd = some h ∧ 0 ≤ (tickOf t - h).toInt
    let back := s.sched.decided ||| BitVec.ofNat 16 (2 ^ c.val)
    let rest := s.sched.exclusions.filter fun e => e.channel ≠ c.val
    (¬held → exec (.exclusionHoldExpiry t c) s = .next (s.enter t)) ∧
    (held → s.req.settings.channelMask.getLsbD c.val = false →
      exec (.exclusionHoldExpiry t c) s = .next { s.enter t with sched := { s.sched with exclusions := rest } }) ∧
    (held → s.req.settings.channelMask.getLsbD c.val = true →
      (s.sched.proposals = [] ∨ (∃ p, bestBy Proposal.before s.sched.proposals = some p ∧
          (dataChannels (maskWithout back p.channel) s.sched.beaconChannel).length < 4) →
        exec (.exclusionHoldExpiry t c) s = .next
          (State.decideMask { s.enter t with sched := { s.sched with exclusions := rest } } back)) ∧
      ∀ p, bestBy Proposal.before s.sched.proposals = some p →
        4 ≤ (dataChannels (maskWithout back p.channel) s.sched.beaconChannel).length →
        exec (.exclusionHoldExpiry t c) s = .next
          (State.decideMask
            { s.enter t with sched := { s.sched with
                exclusions := rest ++ [{ channel := p.channel, holdEnd := none }]
                proposals := s.sched.proposals.filter fun q => q.channel ≠ p.channel } }
            (maskWithout back p.channel)))) ∧
  ∀ (m : Mask) (s : State),
    let e := s.sched.beaconExponent
    let next := s.nextOwnBeacon s.now
    let staged : State :=
      { s with sched := { s.sched with pendingMask := some (m, (next.toNat / 2 ^ e % 256 + 4) % 256) } }
    (s.sched.pendingMask = none → s.decideMask m = if m = s.sched.mask then s else staged) ∧
    (∀ p x, s.sched.pendingMask = some (p, x) → s.decideMask m = if m = p then s else staged) ∧
    (e ≤ 31 → next.toNat % 2 ^ e = 512 * s.sched.phase % 2 ^ e ∧ 1 ≤ (next - s.now).toNat ∧
      (next - s.now).toNat ≤ 2 ^ e)

/-- OWN_BEACON_INSTANT (R26, R27, R28, R35): at a tick that is no beacon instant nothing happens; at one whose claim stands and
finds the radio free the beacon is sent, built from the state held then, or waits for the report of a cut LISTEN (R152;
entry 16); one whose claim is lost to a hold is not sent, and the next beacon's claim follows (R157, R158), stated where
nothing overlaps that one; a pending mask whose number has come becomes current, for the own listens of later beats as
well, the MASK notice is raised (R188), and the beacon of that instant carries it, the new epoch and no pending mask. An open
segment or refresh listen without a reception is cut at the instant, the segment's time counted and the refresh claim gone,
and the beacon then waits for its report (R156, R159; the waiting is entry 16). An event that
is not due only moves the clock (the model's choice, assumption log entry 2). That a beacon instant is taken at its own
tick alone is the model's choice too (entry 30). -/
def Obligations.OwnBeaconInstants : Prop :=
  ∀ (t : Sixteenth) (s : State),
    let now := tickOf t
    let number := now.toNat / 2 ^ s.sched.beaconExponent % 256
    let due := now.toNat % 2 ^ s.sched.beaconExponent = (512 * s.sched.phase) % 2 ^ s.sched.beaconExponent
    let claim := s.radio.timeline.find? fun c => c.kind = .ownBeacon
    let st := s.req.settings
    let beacon (mask : Mask) (epoch : Byte) (pending : Option (Mask × Nat)) : BeaconFrame :=
      { transmitter := st.ownAddress, timestamp := now, number := number
        exponent := if s.sched.supplyMode = .normal then st.beatExponent else min (st.beatExponent + 2) 16
        beaconExponent := s.sched.beaconExponent, phase := s.sched.phase, halfWindow := st.halfWindow
        channel := s.sched.beaconChannel, cost := if st.gateway then 0 else s.route.ownU
        parent := if st.gateway then 0 else (s.route.parents.head?.map (·.address)).getD 0
        flow := s.store.flow, grant := if s.store.flow = .go then st.burstLimit else 1
        mask := mask, epoch := epoch, pendingMask := (pending.map Prod.fst).getD 0
        applyNumber := (pending.map Prod.snd).getD 0 }
    let sends (b : BeaconFrame) : Operation :=
      let stop := tickOf (ofTick now + BitVec.ofNat 36 (16 * airtime b.bytes.length))
      { kind := .send, purpose := .beaconSend, channel := s.sched.beaconChannel, start := tickOf (ofTick now)
        stop := stop, start16 := ofTick now, bytes := b.bytes, started := none, due := stop, cut := false }
    (¬due → exec (.ownBeaconInstant t) s = .next (s.enter t)) ∧
    (due → (∀ m x, s.sched.pendingMask = some (m, x) → x ≠ number) →
      (claim = none → exec (.ownBeaconInstant t) s = .next (s.enter t)) ∧
      (∀ c, claim = some c → c.instant = now → s.radio.waiting = none → s.planner.tx = .idle → s.recv.holds = false →
        let o := sends (beacon s.sched.mask s.sched.epoch s.sched.pendingMask)
        (s.radio.op = none → exec (.ownBeaconInstant t) s = .next { s.enter t with radio := { s.radio with op := some o } }) ∧
        ∀ q, s.radio.op = some q → q.kind = .listen → q.started = none → q.cut = true →
          exec (.ownBeaconInstant t) s = .next { s.enter t with radio := { s.radio with waiting := some o } }) ∧
      (∀ c q, claim = some c → c.instant = now → s.radio.waiting = none → s.planner.tx = .idle → s.recv.holds = false →
        s.radio.op = some q → q.kind = .listen → q.started = none → q.cut = false →
        let o := sends (beacon s.sched.mask s.sched.epoch s.sched.pendingMask)
        let e := if 0 ≤ (now - q.stop).toInt then q.stop else now
        let radio : Radio := { s.radio with op := some { q with stop := e, due := e, cut := true }, waiting := some o }
        (q.purpose = .segment → q.orphan = false →
          exec (.ownBeaconInstant t) s = .next { s.enter t with
            radio := radio
            sched := { s.sched with
              long := s.sched.long.map fun l => { l with counted := l.counted + (e - q.start).toInt.toNat } } }) ∧
        ∀ a, q.purpose = .refresh a → (∃ v ∈ s.radio.timeline, v.kind = .refreshListen ∧ v.owner = a) →
          exec (.ownBeaconInstant t) s = .next { s.enter t with radio := { radio with
            timeline := s.radio.timeline.filter fun v => !(v.kind = .refreshListen && v.owner = a) } }) ∧
      (∀ c, claim = some c → c.instant = now →
        s.planner.tx ≠ .idle ∨ s.recv.holds = true ∨
          (∃ o, s.radio.op = some o ∧ (o.kind = .sense ∨ o.kind = .resetFrontEnd)) →
        (∀ o, s.radio.op = some o → o.kind ≠ .listen) → s.radio.engine = .running → s.radio.stopPending = false →
        let others := s.radio.timeline.filter fun x => !(x.kind = .ownBeacon)
        let next := s.nextOwnBeacon now
        let n : Claim :=
          { kind := .ownBeacon, start := next, stop := some (next + 45), channel := s.sched.beaconChannel, owner := 0
            instant := next }
        (∀ x ∈ others, x.kind.isLong = true ∨ n.overlaps x = false) →
        exec (.ownBeaconInstant t) s
          = .next { s.enter t with radio := { s.radio with timeline := insertBy Claim.before n others } })) ∧
    (due → ∀ m c, s.sched.pendingMask = some (m, number) → claim = some c → c.instant = now → s.radio.op = none →
      s.radio.waiting = none → s.planner.tx = .idle → s.recv.holds = false →
      ∃ s', exec (.ownBeaconInstant t) s = .next s' ∧
        s'.radio.op = some (sends (beacon m (s.sched.epoch + 1) none)) ∧ s'.sched.mask = m ∧
        s'.sched.epoch = s.sched.epoch + 1 ∧ s'.sched.pendingMask = none ∧ s.raises s' (.mask m (s.sched.epoch + 1))) ∧
    (due → ∀ m, s.sched.pendingMask = some (m, number) → claim = none →
      ∃ s', exec (.ownBeaconInstant t) s = .next s' ∧ s'.now16 = t ∧ s'.sched.mask = m ∧
        s'.sched.pendingMask = none ∧ s'.sched.epoch = s.sched.epoch + 1 ∧
        (∀ p ∈ s'.sched.proposals, p ∈ s.sched.proposals ∧ p.channel ∈ dataChannels m s.sched.beaconChannel) ∧
        s'.sched.batches.map (·.channel) = dataChannels m s.sched.beaconChannel ∧
        (∀ e ∈ s.sched.exclusions, e.holdEnd = none → m.getLsbD e.channel = false →
          { e with holdEnd := some (now + BitVec.ofNat 32 (st.exclusionHold * 32768)) } ∈ s'.sched.exclusions) ∧
        s'.radio = { s.radio with timeline := s.radio.timeline.map fun c =>
          if c.kind = .ownListen ∧ 0 < (c.instant - now).toInt then
            { c with channel := beatChannel st.ownAddress m s.sched.beaconChannel c.instant } else c } ∧
        s'.nbr = s.nbr ∧ s'.store = s.store ∧ s.raises s' (.mask m (s.sched.epoch + 1)))

/-- The arbiter's settlement of a claim that is neither census nor discovery (R156): refused when it shares a tick with a
claim of higher or equal rank, granted otherwise, the lower claims it meets being taken away unless they are long or hold
the radio; an open segment is shortened to its window (R159), to now where that window begins in the past (the model's
choice, assumption log entry 63). What losing a claim does to its owner (R158): a listen that is open is cut (R152); that a
cut after the end of its window keeps that end, and that a listen which waits to be issued is not issued, is the model's
choice (entry 16). BEACON_SENT:
while claims are placed, the claim for the first own beacon instant later than now takes the place of the old one (R26),
stated where no other claim overlaps it. -/
def Obligations.BeaconSentPlacesNext : Prop :=
  (∀ (c : Claim) (s : State), c.kind.isLong = false →
    let rank (k : ClaimKind) : Nat := match k with
      | .ownBeacon => 1 | .alarmTransmission => 2 | .ownListen => 3 | .refreshListen => 4 | .otherTransmission => 5
      | .census => 6 | .discovery => 6
    let meets (a b : Claim) : Prop :=
      (∀ e, a.stop = some e → 0 ≤ (e - b.start).toInt) ∧ ∀ e, b.stop = some e → 0 ≤ (e - a.start).toInt
    let taken (x : Claim) : Prop := meets c x ∧ x.kind.isLong = false ∧ x.hold s = false
    ((∃ x ∈ s.radio.timeline, meets c x ∧ rank x.kind ≤ rank c.kind) → s.request c = (false, s)) ∧
    ((∀ x ∈ s.radio.timeline, meets c x → rank c.kind < rank x.kind) →
      (s.request c).1 = true ∧
      (∃ keep : Claim → Bool, (∀ x, keep x = true ↔ ¬taken x) ∧
        (s.request c).2.radio.timeline = insertBy Claim.before c (s.radio.timeline.filter keep) ∧
        ∀ v, s.radio.timeline.filter (fun x => !keep x) = [v] → s.request c = (true, (s.loseClaim v).grant c)) ∧
      ((∀ x ∈ s.radio.timeline, ¬taken x) → ∀ o, s.radio.op = some o → o.kind = .listen → o.purpose = .segment →
        o.started = none → o.cut = false →
        let e := if 0 ≤ (c.start - s.now).toInt then c.start else s.now
        (s.request c).2.radio.op
          = some (if (e - o.stop).toInt < 0 then { o with stop := e, due := e } else o)))) ∧
  (∀ (c : Claim) (s : State),
    let s' := s.loseClaim c
    let line := s.radio.timeline.filter (· ≠ c)
    let opened (p : Purpose) (o : Operation) : Prop :=
      s.radio.op = some o ∧ o.kind = .listen ∧ o.purpose = p ∧ o.started = none ∧ o.cut = false
    let waits (p : Purpose) : Prop :=
      (∃ q, s.radio.op = some q ∧ q.kind = .listen ∧ q.cut = true) ∧
        ∃ w, s.radio.waiting = some w ∧ w.kind = .listen ∧ w.purpose = p ∧ w.started = none ∧ w.cut = false
    let shut (o : Operation) : Operation :=
      let e := if 0 ≤ (s.now - o.stop).toInt then o.stop else s.now
      { o with stop := e, due := e, cut := true }
    (c.kind = .ownListen →
      s'.port.counters.missedBeats = min 65535 (s.port.counters.missedBeats + 1) ∧
      s'.work.placeListen = some c.instant ∧ s'.radio.timeline = line ∧
      (∀ o, opened .ownListen o → s'.recv = {} ∧ s'.radio.op = some (shut o)) ∧
      (waits .ownListen → s'.recv = {} ∧ s'.radio.op = s.radio.op ∧ s'.radio.waiting = none) ∧
      ((∀ o, ¬opened .ownListen o) → ¬waits .ownListen →
        s'.recv = s.recv ∧ s'.radio.op = s.radio.op ∧ s'.radio.waiting = s.radio.waiting)) ∧
    (c.kind.isTransmission = true →
      s' = { s with radio := { s.radio with timeline := line }, work := { s.work with planLost := true } }) ∧
    (c.kind = .refreshListen →
      (∀ o, opened (.refresh c.owner) o →
        s' = { s with radio := { s.radio with timeline := line, op := some (shut o) } }) ∧
      (waits (.refresh c.owner) → s' = { s with radio := { s.radio with timeline := line, waiting := none } }) ∧
      ((∀ o, ¬opened (.refresh c.owner) o) → ¬waits (.refresh c.owner) →
        s' = { s with radio := { s.radio with timeline := line } }))) ∧
  ∀ (t : Sixteenth) (o : Operation) (s : State),
    s.radio.op = some o → o.purpose = .beaconSend → o.cut = false → (tickOf t - o.due).toInt ≤ 131 →
    let others := s.radio.timeline.filter fun c => !(c.kind = .ownBeacon)
    let next := s.nextOwnBeacon (tickOf t)
    let claim : Claim :=
      { kind := .ownBeacon, start := next, stop := some (next + 45), channel := s.sched.beaconChannel, owner := 0
        instant := next }
    let after (l : List Claim) : Host.Outcome State Fault Refusal :=
      .next { s.enter t with radio := { s.radio with op := none, strike := false, timeline := l } }
    (s.radio.engine = .running → s.radio.stopPending = false →
      (∀ c ∈ others, c.kind.isLong = true ∨ claim.overlaps c = false) →
      exec (.beaconSent t) s = after (insertBy Claim.before claim others)) ∧
    (s.radio.engine ≠ .running ∨ s.radio.stopPending = true → exec (.beaconSent t) s = after others)

/-! ## The planner and the sender -/

/-- The choice of the plan (R121, R122, R123, R124): while RUNNING with no stop pending and no plan frozen, the one eligible
frame's rendezvous becomes the OPEN plan with its claim; a claim refused leaves no plan and marks the beat lost (R120,
R128); of two candidates the higher class, the earlier start, the earlier frame wins. PLAN_FREEZE (R125, R126, R127):
before 32 ticks ahead of the local start nothing happens; a plan that fails a question is gone, with its claim and no
burst; one that passes is FROZEN with the burst built for it, its frames out of the transmit queue, and its claim asked
for again with the burst's span; a target whose guard at the plan's instant is too great becomes LAPSED (R54). All its
questions are asked at the plan's own instant (assumption log entry 49). Stated
where no other claim overlaps. An event that is not due only moves the clock (the model's choice, entry 2). -/
def Obligations.PlanFreezes : Prop :=
  (∀ (t : Sixteenth) (s : State),
    let now := tickOf t
    let rest := s.radio.timeline.filter fun c => !c.kind.isTransmission
    let spanned (p : Plan) (fs : List FrameRec) : Plan :=
      let air := (fs.map fun f => airtime (14 + f.payload.length)).sum + 41 * fs.length + 6 * (fs.length - 1)
      { p with winStop := p.winStart + BitVec.ofNat 32 air }
    let claim (q : Plan) : Claim :=
      { kind := if q.cls = .alarm then .alarmTransmission else .otherTransmission, start := q.winStart
        stop := some q.winStop, channel := q.channel, owner := q.target, instant := q.instant }
    let free (q : Plan) : Prop := ∀ c ∈ rest, c.kind.isLong = true ∨ (claim q).overlaps c = false
    let frozen (p : Plan) (fs : List FrameRec) (n : NbrUnit) : State :=
      { s.enter t with
        nbr := n
        store := { s.store with
          queue := s.store.queue.filter fun f => fs.all fun g => g.serial ≠ f.serial
          burst := fs }
        planner := { s.planner with state := .frozen, plan := some (spanned p fs) }
        radio := { s.radio with timeline := insertBy Claim.before (claim (spanned p fs)) rest } }
    (s.planner.state ≠ .open ∨ (∀ p, s.planner.plan = some p → (ofTick now - (p.start - 512)).toInt < 0) →
      exec (.planFreeze t) s = .next (s.enter t)) ∧
    ∀ p, s.planner.state = .open → s.planner.plan = some p → 0 ≤ (ofTick now - (p.start - 512)).toInt →
      let shut : Prop := s.nbr.find p.target = none ∨ p.target ∈ s.nbr.bars ∨ ∃ r, s.nbr.find p.target = some r ∧
        (r.schedule = none ∨ r.tracker.state = .lapsed ∨ r.stale = true ∨
          (p.cls ≠ .alarm ∧ ∃ e, r.hold = some e ∧ (now - e).toInt < 0) ∨
          ∃ c, r.schedule = some c ∧ c.pending = none ∧ 16 * c.halfWindow - 16 < r.tracker.guardAt p.instant)
      (shut ∨ ((s.enter t).freezeTests p).1 = false → s.store.burst = [] →
        (∀ g ∈ s.store.queue ++ s.store.parked, ∃ b, g.backoff = some b ∧ (now - b).toInt < 0) →
        ∃ s', exec (.planFreeze t) s = .next s' ∧ s'.calm = (s.enter t).calm ∧ s'.planner.state = .none ∧
          s'.planner.plan = none ∧ s'.planner.tx = .idle ∧ s'.store.burst = [] ∧
          ∀ c ∈ s'.radio.timeline, c.kind.isTransmission = false) ∧
      (∀ (r : Neighbor) (c : Schedule), s.nbr.find p.target = some r →
        (∀ x ∈ s.nbr.records, x.address = p.target → x = r) → r.schedule = some c → c.pending = none →
        r.tracker.state ≠ .lapsed → r.stale = false → c.exponent < c.beaconExponent →
        16 * c.halfWindow - 16 < r.tracker.guardAt p.instant →
        ∃ s' r', exec (.planFreeze t) s = .next s' ∧ s'.nbr.find p.target = some r' ∧ r'.tracker.state = .lapsed) ∧
      (∀ (r : Neighbor) (c : Schedule), s.openTo p.target r c p.instant → s.store.queue ≠ [] →
        (∀ g ∈ s.store.queue, g.binding = .bound p.target ∧ g.backoff = none) → 1 ≤ r.grant →
        1 ≤ s.req.settings.burstLimit → s.radio.op = none →
        let fs := s.store.queue.take (min r.grant s.req.settings.burstLimit)
        free (spanned p fs) → exec (.planFreeze t) s = .next (frozen p fs s.nbr)) ∧
      ∀ (s1 : State) (fs : List FrameRec) (n : NbrUnit), (s.enter t).freezeTests p = (true, s1) →
        s1.buildBurst p = (fs, { s.enter t with nbr := n }) → fs ≠ [] → s.radio.op = none → free (spanned p fs) →
        exec (.planFreeze t) s = .next (frozen p fs n)) ∧
  (∀ s : State,
    (s.radio.engine ≠ .running ∨ s.radio.stopPending = true ∨ s.planner.state = .frozen ∨ s.planner.state = .burst →
      s.recompute = { s with work := { s.work with recompute := false } }) ∧
    ∀ (f : FrameRec) (a : Addr) (r : Neighbor) (c : Schedule) (b : Tick) (start : Sixteenth),
      s.radio.engine = .running → s.radio.stopPending = false → s.planner.state = .none → s.planner.plan = none →
      s.planner.marks = [] → s.store.queue = [f] → s.store.burst = [] → f.binding = .bound a → f.backoff = none →
      s.openTo a r c b → r.nextRendezvous s.now16 none = some b → r.tracker.predict b = some start → 1 ≤ r.grant →
      1 ≤ s.req.settings.burstLimit → s.radio.op = none →
      let stop := tickOf start + BitVec.ofNat 32 (airtime (14 + f.payload.length) + 41)
      let q : Plan :=
        { target := a, instant := b, start := start, channel := r.channelAt b, cls := f.cls, winStart := tickOf start
          winStop := stop, evicted := false }
      let claim : Claim :=
        { kind := if f.cls = .alarm then .alarmTransmission else .otherTransmission, start := tickOf start
          stop := some stop, channel := q.channel, owner := a, instant := b }
      let rest := s.radio.timeline.filter fun x => !x.kind.isTransmission
      ((∀ x ∈ rest, x.kind.isLong = true ∨ claim.overlaps x = false) →
        s.recompute = { s with
          planner := { s.planner with state := .open, plan := some q }
          radio := { s.radio with timeline := insertBy Claim.before claim rest }
          work := { s.work with recompute := false } }) ∧
      ((∃ x ∈ rest, claim.overlaps x = true ∧ x.kind.rank ≤ claim.kind.rank) →
        s.recompute = { s with
          planner := { s.planner with state := .none, plan := none, tx := .idle, marks := [(a, b)] }
          radio := { s.radio with timeline := rest }
          work := { s.work with recompute := true, planLost := false } })) ∧
  ∀ x y : Candidate,
    let better : Prop := y.plan.cls.code < x.plan.cls.code ∨ (y.plan.cls = x.plan.cls ∧
      ((y.plan.start - x.plan.start).toInt < 0 ∨ (y.plan.start = x.plan.start ∧ y.best.serial < x.best.serial)))
    (better → bestBy Candidate.before [x, y] = some y) ∧ (¬better → bestBy Candidate.before [x, y] = some x)

/-- BURST_START and SPACING_END (R15, R18, R129): at the plan's local start its first frame goes on air as a DATA
addressed to the target, at the spacing's end the next one does; the more flag is set while another frame follows. A
radio that is held at the burst's start takes the plan's claim instead, and the plan is lost (R157): it is gone with its
claim, its frames are back in the queue or the parked list, and its beat is marked (R128). Stated where no other claim's
window has begun. An event that is not due only moves the clock (the model's choice, assumption log entry 2). Beside a
LISTEN already cut the SEND waits for its report (R152; entry 16). -/
def Obligations.BurstDataSent : Prop :=
  (∀ (p : Plan) (s : State), s.planner.plan = some p → s.planner.state = .open ∨ s.planner.state = .frozen →
    s.losePlan.planner = { s.planner with
      state := .none, plan := none, tx := .idle
      marks := s.planner.marks.filter (fun m => m.1 ≠ p.target) ++ [(p.target, p.instant)] } ∧
    (∃ mark : Claim → Claim, (∀ c, mark c = c ∨ mark c = { c with overtaken := true }) ∧
      s.losePlan.radio
        = { s.radio with timeline := (s.radio.timeline.filter fun c => !c.kind.isTransmission).map mark }) ∧
    s.losePlan.store.burst = [] ∧
    ∀ f ∈ s.store.burst, ∃ g ∈ s.losePlan.store.queue ++ s.losePlan.store.parked, g.serial = f.serial) ∧
  ∀ (t : Sixteenth) (p : Plan) (f : FrameRec) (rest : List FrameRec) (s : State),
    s.planner.plan = some p → s.store.burst = f :: rest →
    let d : DataFrame :=
      { cls := f.cls, more := !rest.isEmpty, transmitter := s.req.settings.ownAddress, nextHop := p.target
        origin := f.origin, destination := f.destination, sequence := f.sequence, hopLimit := f.hopLimit
        payload := f.payload }
    let ends (start : Sixteenth) : Sixteenth := start + BitVec.ofNat 36 (16 * airtime (14 + f.payload.length))
    let sends (start : Sixteenth) : Operation :=
      { kind := .send, purpose := .burstData, channel := p.channel, start := tickOf start, stop := tickOf (ends start)
        start16 := start, bytes := d.bytes, started := none, due := tickOf (ends start), cut := false }
    (s.planner.state = .frozen →
      ((tickOf t - tickOf p.start).toInt < 0 → exec (.burstStart t) s = .next (s.enter t)) ∧
      (0 ≤ (tickOf t - tickOf p.start).toInt →
        (s.radio.waiting = none → s.planner.tx = .idle → s.recv.holds = false →
          (∀ c ∈ s.radio.timeline,
            (tickOf t - c.start).toInt < 0 ∨ c.kind.isLong = true ∨ c.kind.isTransmission = true) →
          let starts (radio : Radio) : State :=
            { s.enter t with
              radio := radio
              planner := { s.planner with
                state := .burst, tx := .sending, txSequence := f.sequence, txEnd := ends p.start } }
          (s.radio.op = none →
            exec (.burstStart t) s = .next (starts { s.radio with op := some (sends p.start) })) ∧
          ∀ q, s.radio.op = some q → q.kind = .listen → q.started = none → q.cut = true →
            exec (.burstStart t) s = .next (starts { s.radio with waiting := some (sends p.start) })) ∧
        (s.recv.holds = true →
          exec (.burstStart t) s = .next (State.finish (s.enter t).losePlan) ∧
          ∃ s', exec (.burstStart t) s = .next s' ∧ s'.planner.tx = .idle ∧ s'.calm = (s.enter t).calm))) ∧
    (s.planner.tx = .spacing →
      ((tickOf t - tickOf s.planner.txNext).toInt < 0 → exec (.spacingEnd t) s = .next (s.enter t)) ∧
      (0 ≤ (tickOf t - tickOf s.planner.txNext).toInt → p.evicted = false →
        exec (.spacingEnd t) s = .next
          { s.enter t with
            radio :=
              if s.radio.op = none then { s.radio with op := some (sends s.planner.txNext) }
              else { s.radio with waiting := some (sends s.planner.txNext) }
            planner := { s.planner with
              tx := .sending, txSequence := f.sequence, txEnd := ends s.planner.txNext } }))

/-- DATA_SENT and AWAITING_EMPTY (R15, R134, R136): after its DATA the sender listens for 12 ticks from the DATA's end on
the same channel, unless the report came too late, which is compared in ticks (the model's choice, assumption log entry
18); the empty window leaves it IDLE, and at most one backoff is drawn, counted from the window's end (R135; entry 26):
the frame that backs off is back in the queue or the parked list. An event that is not due only moves the clock (entry
2). -/
def Obligations.SentDataAwaited : Prop :=
  ∀ (t : Sixteenth) (o : Operation) (s : State), s.radio.op = some o → o.cut = false → (tickOf t - o.due).toInt ≤ 131 →
    (o.purpose = .burstData →
      let stop := tickOf s.planner.txEnd
      let l : Operation :=
        { kind := .listen, purpose := .ackWait, channel := o.channel, start := stop, stop := stop + 12
          start16 := ofTick stop, bytes := [], started := none, due := stop + 12, cut := false }
      ((tickOf t - stop).toInt ≤ 0 →
        exec (.dataSent t) s = .next
          { s.enter t with
            radio := { s.radio with op := some l, strike := false }
            planner := { s.planner with tx := .awaiting } }) ∧
      (0 < (tickOf t - stop).toInt →
        ∃ s', exec (.dataSent t) s = .next s' ∧ s'.planner.tx = .idle ∧ s'.radio.op = none ∧
          s'.steady = { (s.enter t).steady with strike := false })) ∧
    (o.purpose = .ackWait → o.started = none →
      ((tickOf t - o.stop).toInt < 0 → exec (.awaitingEmpty t) s = .next (s.enter t)) ∧
      (0 ≤ (tickOf t - o.stop).toInt →
        ∃ s' k, exec (.awaitingEmpty t) s = .next s' ∧ s'.planner.tx = .idle ∧ s'.radio.op = none ∧ k ≤ 1 ∧
          s'.steady = { (s.enter t).steady with strike := false, draws := s.draws + k }) ∧
      (0 ≤ (tickOf t - o.stop).toInt →
        ∀ (p : Plan) (f : FrameRec) (rest : List FrameRec) (r : Neighbor) (c : Schedule), s.planner.plan = some p →
          p.evicted = false → s.store.burst = f :: rest → (∀ g ∈ rest, g.serial ≠ f.serial) →
          s.nbr.find p.target = some r → r.schedule = some c → f.total + 1 < s.req.settings.totalLimit →
          let hops := if f.hops < s.req.settings.perHopLimit then f.hops + 1 else f.hops
          let kept := if f.binding = .uplink ∧ s.req.settings.perHopLimit ≤ hops then 0 else hops
          ∃ s', exec (.awaitingEmpty t) s = .next s' ∧ s'.draws = s.draws + 1 ∧
            ∃ g ∈ s'.store.queue ++ s'.store.parked, g.serial = f.serial ∧ g.total = f.total + 1 ∧ g.hops = kept ∧
              ∃ x, 1 ≤ x ∧ x ≤ 2 ^ min kept 3 ∧ g.backoff = some (o.stop + BitVec.ofNat 32 (x * 2 ^ c.exponent))))

/-- What an accepted ACK brings to the target's record: signal average, link estimate, timing sample, hold, grant, exponent
and epoch, and the cost of a NOROUTE (R60, R73, R74, R76, R77, R93, R130). TAKING_FRAME_END (R16, R18, R130, R131, R136):
only an ACK of the DATA just sent, from the target to this node, is accepted; a GO with a frame left and time for it
leads to SPACING until 35 ticks after the ACK's capture, with its frame gone from the burst and the others kept in order;
anything else ends the burst with the sender IDLE. What becomes of the acknowledged frame, with the backlog empty: after GO
or HOLD it leaves FORWARDED, its cell free, the relayed or the originated-sent counter raised, and its box DONE with
sequence, hop limit, neighbor and attempts (R111, R131, R137, R182); after FULL, or NOROUTE for an uplink frame, it returns
unchanged but for its deadline (R132, R133); after NOROUTE a bound one leaves NOROUTE with the neighbor (R133). Lateness is compared in ticks (the model's choice, assumption log
entry 18). -/
def Obligations.TakingFrameEnds : Prop :=
  (∀ (p : Plan) (k : AckFrame) (level : BitVec 8) (r : Neighbor) (s : State), s.nbr.find p.target = some r →
    let hold : Bool := k.kind = .hold ∨ k.kind = .full ∨ (k.kind = .noroute ∧ k.flow = .hold)
    ∃ r', (s.ackIntake p k level).nbr.find p.target = some r' ∧
      r' = { r with
        tracker := (r.tracker.sample s.req.settings .ack p.instant (p.start - BitVec.ofInt 36 k.timingError) s.now).1
        active := r'.active, schedule := r'.schedule, stale := r'.stale, lastTried := r'.lastTried
        cost := if k.kind = .noroute then 4095 else r.cost
        hold := if hold then some (s.now + BitVec.ofNat 32 (s.req.settings.holdLifetime * 32768)) else none
        grant := k.grant
        q := ((r.q : Int) + Int.tdiv (4095 - r.q) (if r.updates < 8 then 4 else 16)).toNat
        updates := min 8 (r.updates + 1), untried := false
        signal := r.signal + Int.tdiv (level.toInt - r.signal) 8 } ∧
      ((r.tracker.state = .locked → r.active = true) →
        r'.active = (r.active || decide (r'.tracker.state = .locked))) ∧
      ∀ c, r.schedule = some c → c.pending = none → 9 ≤ k.exponent → k.exponent ≤ 16 → c.phase < 2 ^ k.exponent →
        r'.schedule = some { c with exponent := k.exponent } ∧ r'.stale = (r.stale || decide (c.epoch ≠ k.epoch))) ∧
  ∀ (t : Sixteenth) (f : RxFrame) (o : Operation) (p : Plan) (r : FrameRec) (rest : List FrameRec) (s : State),
    s.radio.op = some o → o.purpose = .ackWait → o.cut = false → o.started ≠ none → (tickOf t - o.due).toInt ≤ 131 →
    s.planner.plan = some p → s.planner.state = .burst → s.store.burst = r :: rest →
    let accepted (k : AckFrame) : Prop :=
      readFrame f.bytes = some (.ack k) ∧ k.transmitter = p.target ∧ k.addressee = s.req.settings.ownAddress ∧
        k.sequence = s.planner.txSequence
    let next := f.capture + 560
    ((∀ k, ¬accepted k) →
      ∃ s' n, exec (.takingFrameEnd t f) s = .next s' ∧ s'.planner.tx = .idle ∧ s'.radio.op = none ∧ n ≤ 1 ∧
        s'.steady = { (s.enter t).steady with strike := false, draws := s.draws + n }) ∧
    ∀ k, accepted k →
      (k.kind = .go → p.evicted = false → (∃ g ∈ rest, g.serial ≠ r.serial) → (tickOf t - tickOf next).toInt ≤ 0 →
        s.port.backlog = [] →
        ∃ s', exec (.takingFrameEnd t f) s = .next s' ∧ s'.now16 = t ∧ s'.radio.op = none ∧ s'.radio.strike = false ∧
          s'.planner = { s.planner with tx := .spacing, txNext := next } ∧
          (∀ g ∈ s'.store.burst, g ∈ rest ∧ g.serial ≠ r.serial) ∧
          ((∀ g ∈ s.store.queue ++ s.store.parked, ∀ h ∈ rest, g.serial ≠ h.serial) →
            s'.store.burst = rest.filter fun g => g.serial ≠ r.serial)) ∧
      (k.kind ≠ .go ∨ p.evicted = true ∨ rest = [] ∨ 0 < (tickOf t - tickOf next).toInt →
        ∃ s', exec (.takingFrameEnd t f) s = .next s' ∧ s'.planner.tx = .idle ∧ s'.radio.op = none ∧
          s'.steady = { (s.enter t).steady with strike := false }) ∧
      (s.port.backlog = [] → s.cellsOk → p.evicted = false ∨ rest = [] →
        ∃ s', exec (.takingFrameEnd t f) s = .next s' ∧
          let more (n : Nat) : Nat := min 65535 (n + 1)
          let c := s.port.counters
          let c' := s'.port.counters
          let left (code : Byte) : Prop :=
            (∀ g ∈ s'.store.queue ++ s'.store.parked ++ s'.store.staging ++ s'.store.burst, g.serial ≠ r.serial) ∧
            s'.store.free = s.store.free + 1 ∧
            ∀ b, r.source = .originated b → s.memOk → b ∉ s.port.lent →
              b ∉ s'.port.taken ∧ Memory.read s'.port.mem b.val = 0x03 ∧
              ∀ i, i < 256 → i ≠ 4 → i ≠ 5 → Memory.read s'.port.mem (bodyAddr b + i) =
                if i = 0 ∨ i = 2 ∨ i = 3 then Memory.read s.port.mem (bodyAddr b + i)
                else [0, code, 0, 0, 0, 0, r.sequence, BitVec.ofNat 8 r.hopLimit, p.target.extractLsb' 0 8,
                  p.target.extractLsb' 8 8, BitVec.ofNat 8 r.total].getD i 0
          (k.kind = .go ∨ k.kind = .hold →
            left 0x02 ∧ c'.noroute = c.noroute ∧
            ((∃ b, r.source = .originated b) → c'.originatedSent = more c.originatedSent ∧ c'.relayed = c.relayed) ∧
            ((∃ h g x, r.source = .relayed h g x) →
              c'.relayed = more c.relayed ∧ c'.originatedSent = c.originatedSent)) ∧
          (k.kind = .noroute → (∃ a, r.binding = .bound a) →
            left 0x04 ∧ c'.noroute = more c.noroute ∧ c'.relayed = c.relayed ∧ c'.originatedSent = c.originatedSent) ∧
          (k.kind = .full ∨ (k.kind = .noroute ∧ ∀ a, r.binding ≠ .bound a) → p.evicted = false →
            s'.store.free = s.store.free ∧ c'.noroute = c.noroute ∧ c'.relayed = c.relayed ∧
            c'.originatedSent = c.originatedSent ∧
            ∃ g ∈ s'.store.queue ++ s'.store.parked, g = { r with deadline := g.deadline }))

/-- The disposal of a frame without an ACK (R134, R135): its attempt counts rise; at the total limit it leaves EXHAUSTED; an
uplink frame at the hop limit notes the failed neighbor and starts afresh; a frame kept backs off for 1 to 2^min(h, 3) beat
intervals of the target, which of them being left open. -/
def Obligations.FailedFrameBacksOff : Prop :=
  ∀ (p : Plan) (f : FrameRec) (r : Neighbor) (c : Schedule) (found : Tick) (s : State),
    s.nbr.find p.target = some r → r.schedule = some c → p.evicted = false →
    let st := s.req.settings
    let hops := if f.hops < st.perHopLimit then f.hops + 1 else f.hops
    let tried : FrameRec := { f with total := f.total + 1, hops := hops }
    let kept : FrameRec :=
      if f.binding = .uplink ∧ st.perHopLimit ≤ hops then { tried with hops := 0, lastFail := some p.target } else tried
    let put (g : FrameRec) : State := { s with store := { s.store with burst := g :: s.store.burst.tail } }
    (st.totalLimit ≤ f.total + 1 → s.failFrame found p f = (put tried).leave State.runScan tried .exhausted) ∧
    (f.total + 1 < st.totalLimit →
      ∃ x, 1 ≤ x ∧ x ≤ 2 ^ min kept.hops 3 ∧
        s.failFrame found p f =
          { put { kept with backoff := some (found + BitVec.ofNat 32 (x * 2 ^ c.exponent)) } with draws := s.draws + 1 })

/-! ## Refresh listens, censuses and discoveries -/

/-- What a neighbor's beacon refreshes in its record: signal average, cost, parent, poison, hold, grant, timing sample and
schedule, or the stale mark where its values cannot be used (R58, R61, R73, R76, R77, R92, R148, R149), with a review and
a recomputation called for (R88, R124); that such values remove a stored pending mask is read from R148 for the other
cases of R61 (assumption log entry 20). REFRESH_LISTEN_OPEN and REFRESH_LISTEN_END (R157, R161): the refresh window opens
on a free radio, late where its start lies in the past, and is lost to a receiving rendezvous or when it is over (the
model's choice for such a start, entry 63); the neighbor's beacon or the window's end ends it with its claim; after a frame
that is no beacon the listen goes on to the window's end, and for one that ends in the window's last tick that is the
model's choice (entry 67). An event that is not due only moves the clock (the model's choice, entry 2). -/
def Obligations.RefreshListens : Prop :=
  (∀ (b : BeaconFrame) (capture : Sixteenth) (level : BitVec 8) (r : Neighbor) (s : State),
    s.nbr.find b.transmitter = some r →
    let good : Prop := 9 ≤ b.exponent ∧ b.exponent ≤ 16 ∧ b.beaconExponent ≤ 20 ∧ 512 * b.phase < 2 ^ b.exponent ∧
      4 ≤ (dataChannels b.mask b.channel).length ∧ b.timestamp.toNat % 2 ^ b.beaconExponent = 512 * b.phase ∧
      b.number = b.timestamp.toNat / 2 ^ b.beaconExponent % 256
    let ahead := (b.applyNumber + 256 - b.number % 256) % 256
    ∃ r', (s.refreshNbr b capture level).nbr.find b.transmitter = some r' ∧
      r' = { r with
        tracker := (r.tracker.sample s.req.settings .beacon b.timestamp capture s.now).1
        active := r'.active, lastTried := r'.lastTried
        schedule := r'.schedule, stale := r'.stale
        signal := r.signal + Int.tdiv (level.toInt - r.signal) 8, cost := b.cost, parent := b.parent, poisoned := false
        hold := match b.flow with
          | .hold => some (s.now + BitVec.ofNat 32 (s.req.settings.holdLifetime * 32768))
          | .go => none
        grant := b.grant } ∧
      ((r.tracker.state = .locked → r.active = true) →
        r'.active = (r.active || decide (r'.tracker.state = .locked))) ∧
      (good → r'.stale = false ∧ ∃ c, r'.schedule = some c ∧
        c = { exponent := b.exponent, phase := 512 * b.phase, halfWindow := b.halfWindow
              beaconExponent := b.beaconExponent, beaconChannel := b.channel, mask := b.mask, epoch := b.epoch
              pending := c.pending } ∧
        (b.pendingMask ≠ 0 ∧ 4 ≤ (dataChannels b.pendingMask b.channel).length ∧ ahead ≠ 0 →
          c.pending = some { mask := b.pendingMask, number := b.applyNumber
                             instant := b.timestamp + BitVec.ofNat 32 (ahead * 2 ^ b.beaconExponent) }) ∧
        (b.pendingMask = 0 ∨ (dataChannels b.pendingMask b.channel).length < 4 ∨ ahead = 0 → c.pending = none)) ∧
      (¬good → r'.stale = true ∧ r'.schedule = r.schedule.map fun c => { c with pending := none }) ∧
      (s.refreshNbr b capture level).work.review = true ∧ (s.refreshNbr b capture level).work.recompute = true) ∧
  ∀ (t : Sixteenth) (a : Addr) (c : Claim) (e : Tick) (s : State), s.refreshClaim a = some c → c.stop = some e →
    let now := tickOf t
    let listen (channel : Nat) (start : Tick) : Operation :=
      { kind := .listen, purpose := .refresh a, channel := channel, start := start, stop := e, start16 := ofTick start
        bytes := [], started := none, due := e, cut := false }
    let gone := s.radio.timeline.filter fun x => !(x.kind = .refreshListen && x.owner = a)
    let ended : State := { s.enter t with radio := { s.radio with op := none, strike := false, timeline := gone } }
    ((now - c.start).toInt < 0 → exec (.refreshListenOpen t a) s = .next (s.enter t)) ∧
    (0 ≤ (now - c.start).toInt → s.radio.op = none →
      (0 ≤ (e - now).toInt → s.radio.waiting = none → s.planner.tx = .idle → s.recv.holds = false →
        exec (.refreshListenOpen t a) s
          = .next { s.enter t with radio := { s.radio with op := some (listen c.channel c.start) } }) ∧
      ((e - now).toInt < 0 ∨ s.recv.holds = true →
        exec (.refreshListenOpen t a) s
          = .next { s.enter t with radio := { s.radio with timeline := s.radio.timeline.filter (· ≠ c) } })) ∧
    ∀ o, s.radio.op = some o → o.purpose = .refresh a → o.cut = false → (now - o.due).toInt ≤ 131 →
      (o.started = none → 0 ≤ (now - o.stop).toInt → exec (.refreshListenEnd t none) s = .next ended) ∧
      ∀ f : RxFrame, o.started ≠ none →
        (∀ b, readFrame f.bytes = some (.beacon b) → b.transmitter = a →
          ∃ s', exec (.refreshListenEnd t (some f)) s = .next s' ∧ s'.radio.op = none ∧
            (∀ x ∈ s'.radio.timeline, x.kind = .refreshListen → x.owner ≠ a) ∧
            s'.steady = { (s.enter t).steady with strike := false }) ∧
        ((∃ d, readFrame f.bytes = some (.data d)) ∨ (∃ k, readFrame f.bytes = some (.ack k)) →
          (s.radio.engine = .running → s.radio.stopPending = false → 0 ≤ (e - now).toInt →
            exec (.refreshListenEnd t (some f)) s = .next
              { s.enter t with radio := { s.radio with op := some (listen o.channel now), strike := false } }) ∧
          ((e - now).toInt < 0 → exec (.refreshListenEnd t (some f)) s = .next ended))

/-- LISTEN_SEGMENT_START and LISTEN_SEGMENT_END (R37, R38, R159): a segment of a census or discovery opens on a free radio
on the beacon channel in use, and its listening time counts to the end of its window or of the frame heard, unless its
own census or discovery is over meanwhile (R37: nothing is carried over). With a stop pending none opens, and the claim
that a reception has held goes at its end (R164). A segment's end is stated where no higher claim stands:
the span's end, or for a census the interval's expiry if that comes first. The report of a segment that was cut is stated
in EmptyWindowsEnd. An event that is not due only moves the clock (the model's choice, assumption log entry 2). -/
def Obligations.ListenSegments : Prop :=
  ∀ (t : Sixteenth) (s : State),
    let now := tickOf t
    (s.radio.stopPending = true ∨
        (s.sched.long = none ∨ (∀ l, s.sched.long = some l → l.span ≤ l.counted ∨ l.waiting = true)) ∨
        s.planner.tx ≠ .idle ∨ s.recv.holds = true →
      exec (.listenSegmentStart t) s = .next (s.enter t)) ∧
    (∀ l, s.sched.long = some l → l.waiting = false → l.counted < l.span → s.radio.op = none → s.planner.tx = .idle →
      s.recv.holds = false → s.radio.stopPending = false → (∃ c ∈ s.radio.timeline, c.kind.isLong = true) →
      (∀ c ∈ s.radio.timeline, c.kind.isLong = true) →
      let spanEnd := now + BitVec.ofNat 32 (l.span - l.counted)
      let stop := if l.discovery = false ∧ (s.sched.censusDue - spanEnd).toInt < 0 then s.sched.censusDue else spanEnd
      let o : Operation :=
        { kind := .listen, purpose := .segment, channel := s.sched.beaconChannel, start := now, stop := stop
          start16 := ofTick now, bytes := [], started := none, due := stop, cut := false }
      exec (.listenSegmentStart t) s = .next { s.enter t with radio := { s.radio with op := some o } }) ∧
    ∀ o, s.radio.op = some o → o.purpose = .segment → o.cut = false → (now - o.due).toInt ≤ 131 →
      let counted (upto : Tick) : Option LongListen :=
        if o.orphan then s.sched.long
        else s.sched.long.map fun l => { l with counted := l.counted + (upto - o.start).toInt.toNat }
      let ended (upto : Tick) : State :=
        { s.enter t with
          radio := { s.radio with op := none, strike := false }
          sched := { s.sched with long := counted upto } }
      let kept : List Claim :=
        if s.radio.stopPending then
          s.radio.timeline.filter fun c => c.kind.isTransmission && decide (s.planner.state = .burst)
        else s.radio.timeline
      let heard : State :=
        { ended now with radio := { s.radio with op := none, strike := false, timeline := kept } }
      (o.started = none → 0 ≤ (now - o.stop).toInt → exec (.listenSegmentEnd t none) s = .next (ended o.stop)) ∧
      ∀ f : RxFrame, o.started ≠ none →
        ((∃ d, readFrame f.bytes = some (.data d)) ∨ (∃ k, readFrame f.bytes = some (.ack k)) →
          exec (.listenSegmentEnd t (some f)) s = .next heard) ∧
        (readFrame f.bytes = none →
          exec (.listenSegmentEnd t (some f)) s = .next
            { heard with port := { s.port with
                counters := { s.port.counters with badChecks := min 65535 (s.port.counters.badChecks + 1) } } }) ∧
        (∀ b, readFrame f.bytes = some (.beacon b) →
          ∃ s', exec (.listenSegmentEnd t (some f)) s = .next s' ∧ s'.radio.op = none ∧
            s'.steady = { (s.enter t).steady with strike := false, long := counted now } ∧
            (s.radio.stopPending = true → ∀ c ∈ s'.radio.timeline, c.kind.isLong = false))

/-- CENSUS_END, DISCOVERY_END and CENSUS_INTERVAL_EXPIRY (R36, R37, R38, R162): a census that has counted its span, the
segment or reception under way included, is over with its claim; an open segment is cut, a reception goes on and counts
toward no later census; a discovery that has counted its span leads to RUNNING, where the next own beacon instant is
claimed; the interval
timer starts again at its expiry, and a census begins in RUNNING while the supply mode is NORMAL. An event that is not
due only moves the clock (the model's choice, assumption log entry 2). The timer's fresh start is counted from the
moment the expiry is taken (entry 44). Every lock-loss count falls by 1 there, not below 0 (R50), stated where no frame
waits. -/
def Obligations.CensusAndDiscoveryTurns : Prop :=
  ∀ (t : Sixteenth) (s : State),
    let now := tickOf t
    let ends (o : Operation) : Tick := if 0 ≤ (now - o.stop).toInt then o.stop else now
    let listened (l : LongListen) : Nat :=
      match s.radio.op with
      | some o =>
        if o.kind = .listen ∧ o.purpose = .segment ∧ o.cut = false ∧ o.orphan = false then
          l.counted + ((if o.started = none then ends o else now) - o.start).toInt.toNat
        else l.counted
      | none => l.counted
    (∀ l, s.sched.long = some l → l.discovery = false → l.waiting = false →
      exec (.censusEnd t) s = .next
        (if l.span ≤ listened l then
          { s.enter t with
            radio := { s.radio with
              op := s.radio.op.map fun o =>
                if o.purpose = .segment ∧ o.started ≠ none then { o with orphan := true }
                else if o.purpose = .segment ∧ o.kind = .listen ∧ o.cut = false then
                  { o with stop := ends o, due := ends o, cut := true }
                else o
              timeline := s.radio.timeline.filter fun c => !c.kind.isLong }
            sched := { s.sched with long := none } }
        else s.enter t)) ∧
    (∀ l, s.sched.long = some l → l.discovery = true → l.waiting = false → s.radio.engine = .discovery →
      s.radio.stopPending = false →
      (listened l < l.span → exec (.discoveryEnd t) s = .next (s.enter t)) ∧
      (l.span ≤ listened l →
        (∃ s', exec (.discoveryEnd t) s = .next s' ∧
          s'.steady = { (s.enter t).steady with engine := .running, long := none }) ∧
        (s.port.backlog = [] →
          ∃ s', exec (.discoveryEnd t) s = .next s' ∧
            { kind := .ownBeacon, start := s.nextOwnBeacon (tickOf t), stop := some (s.nextOwnBeacon (tickOf t) + 45)
              channel := s.sched.beaconChannel, owner := 0, instant := s.nextOwnBeacon (tickOf t) }
              ∈ s'.radio.timeline))) ∧
    ((tickOf t - s.sched.censusDue).toInt < 0 → exec (.censusIntervalExpiry t) s = .next (s.enter t)) ∧
    (0 ≤ (tickOf t - s.sched.censusDue).toInt →
      let st := s.req.settings
      let long : Option LongListen :=
        if s.radio.engine = .running ∧ s.radio.stopPending = false ∧ s.sched.supplyMode = .normal then
          some { discovery := false, span := st.censusSpan * 32768, counted := 0, waiting := false }
        else s.sched.long.filter fun l => l.discovery
      ∃ s', exec (.censusIntervalExpiry t) s = .next s' ∧
        s'.calm = { (s.enter t).calm with sched := { s.sched with
          censusDue := tickOf t + BitVec.ofNat 32 (st.censusInterval * 32768), long := long } } ∧
        (s.store.queue = [] → s.store.parked = [] →
          s'.nbr = { s.nbr with places := s.nbr.places.map fun p => p.map fun r =>
            { r with tracker := { r.tracker with lockLoss := r.tracker.lockLoss - 1 } } }))

/-! ## Supervision -/

/-- RESET_FRONT_END_READY, LATE_RESPONSE and OPERATION_TIMEOUT (R153, R154): an answered reset frees the radio, keeps the
strike flag and begins a discovery that waits for it, and with a stop pending a claim held for it goes (R164); a late response is discarded; with an operation 131 ticks past its
due moment that operation is abandoned, or for a LISTEN cut before the one that waits for its report: the first time with
the strike flag set and a RESET-FRONT-END issued, the next with the radio fault latched, its flag and attention reason set
and a running engine FAULTED with its timeline empty and no frame parked, or HALTED where a stop was pending (R164). A
segment counts its listening time to its due moment or to now (the model's choice, assumption log entry 19); what the
timeout of a cut LISTEN does to the operation that waits is the model's choice too (entry 16), and so is the tick at which
a response turns late (entry 31). `Radio.serving` is the operation outstanding, or for a cut LISTEN the one that waits. At a
first timeout (R153) the frames of a burst go back with their attempts and no Q update; a rendezvous ends and its decision
stands; an own beat is missed once and the next own listen placed; a SENSE reports nothing; a beacon is not sent again and
the next is placed; a refresh claim ends; a segment counts: stated where no other claim's window has begun and nothing
stands against a claim placed. The latch raises RADIO_FAULT with the kind of the operation timed out (R154, R188; that FAULT
is set first is entry 68), with the backlog empty and no burst of an evicted target. An event that is not due only moves the
clock (entry 2). -/
def Obligations.FrontEndSupervised : Prop :=
  ∀ (t : Sixteenth) (s : State),
    let now := tickOf t
    let late (q : Operation) : Prop := 131 ≤ (now - q.due).toInt
    let counted : Option LongListen :=
      match s.radio.serving with
      | some o =>
        if o.purpose = .segment ∧ o.orphan = false then
          s.sched.long.map fun l =>
            { l with counted := l.counted
                + ((if 0 ≤ (now - o.due).toInt then o.due else now) - o.start).toInt.toNat }
        else s.sched.long
      | none => s.sched.long
    let reset : Operation :=
      { kind := .resetFrontEnd, purpose := .resetFrontEnd, channel := 0, start := now, stop := now, start16 := t
        bytes := [], started := none, due := now, cut := false }
    let first (line : List Claim) : State :=
      { s.enter t with radio := { s.radio with op := some reset, waiting := none, strike := true, timeline := line } }
    let calmBut (own : Claim → Bool) : Prop := ∀ c ∈ s.radio.timeline, own c = true ∨ c.kind.isLong = true ∨
      (now - c.start).toInt < 0 ∨ ∃ e, c.stop = some e ∧ (e - now).toInt < 0
    let rest (own : Claim → Bool) : List Claim := s.radio.timeline.filter fun c => !own c
    exec (.lateResponse t) s = .next (s.enter t) ∧
    (s.radio.op = none → exec (.resetFrontEndReady t) s = .next (s.enter t)) ∧
    (∀ o, s.radio.op = some o → o.purpose = .resetFrontEnd → o.cut = false → (now - o.due).toInt ≤ 131 →
      let kept : List Claim :=
        if s.radio.stopPending then
          s.radio.timeline.filter fun c => c.kind.isTransmission && decide (s.planner.state = .burst)
        else s.radio.timeline
      (s.sched.long.all (fun l => !l.waiting) = true →
        exec (.resetFrontEndReady t) s = .next { s.enter t with radio := { s.radio with op := none, timeline := kept } }) ∧
      ∀ l, s.sched.long = some l → l.waiting = true →
        let claim : Claim :=
          { kind := if l.discovery then .discovery else .census, start := now, stop := none
            channel := s.sched.beaconChannel, owner := 0, instant := now }
        exec (.resetFrontEndReady t) s = .next
          { s.enter t with
            radio := { s.radio with
              op := none
              timeline := insertBy Claim.before claim (kept.filter fun c => !c.kind.isLong) }
            sched := { s.sched with
              long := some { discovery := l.discovery, span := l.span, counted := 0, waiting := false } } }) ∧
    ((∀ q, s.radio.op = some q → ¬late q) → exec (.operationTimeout t) s = .next (s.enter t)) ∧
    ((∃ q, s.radio.op = some q ∧ late q) →
      (s.radio.strike = false →
        ∃ s', exec (.operationTimeout t) s = .next s' ∧
          s'.radio.op = some reset ∧ s'.radio.waiting = none ∧
          s'.steady = { (s.enter t).steady with strike := true, long := counted } ∧
          ∀ o, s.radio.serving = some o →
            (o.purpose = .burstData ∨ o.purpose = .ackWait → s'.planner.tx = .idle ∧
              ∀ p, s.planner.plan = some p → p.evicted = false → s'.store.burst = [] ∧
                (s'.planner.state = .none ∨ s'.planner.state = .open) ∧
                (s.cellsOk → ∀ f ∈ s.store.burst,
                  ∃ g ∈ s'.store.queue ++ s'.store.parked, g = { f with deadline := g.deadline }) ∧
                ∀ a r', s'.nbr.find a = some r' → ∃ r, s.nbr.find a = some r ∧ r'.q = r.q ∧ r'.updates = r.updates ∧
                  r'.untried = r.untried) ∧
            (o.purpose = .ackSend ∨ o.purpose = .continuation ∨ o.purpose = .ownListen → s'.recv = {}) ∧
            (o.purpose = .ackSend ∨ o.purpose = .continuation → calmBut (fun _ => false) →
              s' = { first s.radio.timeline with recv := {} }) ∧
            (o.purpose = .ownListen → calmBut (·.kind = .ownListen) → s.followsFree now s.recv.beat →
              s' = { first (s.listenFollows now s.recv.beat) with
                recv := {}
                port := { s.port with counters := { s.port.counters with
                  missedBeats := min 65535 (s.port.counters.missedBeats + 1) } } }) ∧
            (o.purpose = .survey → s'.sched.batches = s.sched.batches ∧
              ∀ c, s.radio.timeline.find? (fun c => c.kind = .ownListen && decide (0 ≤ (now - c.start).toInt)) = some c →
                calmBut (· = c) → s.followsFree now c.instant →
                s' = first (s.listenFollows now c.instant)) ∧
            (o.purpose = .beaconSend → calmBut (·.kind = .ownBeacon) →
              let next := s.nextOwnBeacon now
              let n : Claim :=
                { kind := .ownBeacon, start := next, stop := some (next + 45), channel := s.sched.beaconChannel
                  owner := 0, instant := next }
              let others := rest (·.kind = .ownBeacon)
              (s.radio.engine ≠ .running ∨ s.radio.stopPending = true → s' = first others) ∧
              (s.radio.engine = .running → s.radio.stopPending = false → s.sched.beaconExponent ≤ 31 →
                (∀ c ∈ others, c.kind.isLong = true ∨ n.overlaps c = false) →
                s' = first (insertBy Claim.before n others))) ∧
            (∀ a, o.purpose = .refresh a →
              let own (c : Claim) : Bool := c.kind = .refreshListen && c.owner = a
              calmBut own → s' = first (rest own)) ∧
            (o.purpose = .segment → calmBut (fun _ => false) →
              s' = { first s.radio.timeline with sched := { s.sched with long := counted } }) ∧
            (o.purpose = .resetFrontEnd → calmBut (fun _ => false) → s' = first s.radio.timeline)) ∧
      (s.radio.strike = true → s.radio.stopPending = false →
        ∃ s', exec (.operationTimeout t) s = .next s' ∧ s'.radio.op = none ∧ s'.radio.waiting = none ∧
          s'.port.attention.reasons.fault = true ∧
          (s.radio.engine ≠ .halted → s'.radio.timeline = [] ∧ s'.store.parked = []) ∧
          (s.port.backlog = [] → (∀ p, s.planner.plan = some p → p.evicted = false) →
            ∀ q, s.radio.op = some q → s.raises s' (.radioFault q.kind)) ∧
          s'.steady = { (s.enter t).steady with
            engine := if s.radio.engine = .halted then .halted else .faulted
            faultLatch := true
            long := if s.radio.engine = .halted then counted else none
            flags := { s.port.flags with radioFault := true } }) ∧
      (s.radio.strike = true → s.radio.stopPending = true → s.planner.tx = .idle → s.recv.holds = false →
        ∃ s', exec (.operationTimeout t) s = .next s' ∧ s'.radio.op = none ∧
          s'.port.attention.reasons.fault = true ∧
          (s.port.backlog = [] → s.store.burst = [] →
            (∀ b ∈ s.port.lent, ∀ g ∈ s.store.queue ++ s.store.parked, g.source ≠ .originated b) →
            ∀ q, s.radio.op = some q → s.raises s' (.radioFault q.kind)) ∧
          s'.steady = { (s.enter t).steady with
            engine := .halted, stopPending := false, faultLatch := true, long := none
            flags := { s.port.flags with radioFault := true } }))

/-! ## Sweeps and expiries -/

/-- NEIGHBOR_SWEEP (R78): the next sweep is due a second after this one was. With every record pinned, so that none leaves,
every trail older than 65,535 s is brought to that age, and then those past the trail lifetime go (R96). With distinct
addresses and no frame in the store, every record's tracker is aged (R51), an expired hold is cleared (R76), its admission
time is kept within 65,535 s, and it is evicted for its probation time or its lapse age (R68), or else keeps everything
but its refresh mark and a pending mask that has come into force. A parent due for a refresh gets a refresh claim around
its next beacon instant (R57, R160, R161), stated where nothing else is due and nothing stands against the claim. Ages are
read without a sign (the model's choice, assumption log entry 53). An event that is not due only moves the clock (entry
2). -/
def Obligations.NeighborSweepAges : Prop :=
  ∀ (t : Sixteenth) (s : State),
    let now := tickOf t
    let st := s.req.settings
    let ageOf (x : Tick) : Nat := (now - x).toNat
    let clamp (x : Tick) : Tick := if 65535 * 32768 ≤ ageOf x then now - BitVec.ofNat 32 (65535 * 32768) else x
    let aged : List Trail := (s.route.trails.map fun e => { e with refreshed := clamp e.refreshed }).filter
      fun e => st.trailLifetime = 0 ∨ ageOf e.refreshed ≤ st.trailLifetime * 32768
    let tracker (k : Tracker) : Tracker :=
      if k.state = .lapsed then { k with lapseAge := min 65535 (k.lapseAge + 1) }
      else match k.lastSample with
        | none => k
        | some x =>
          if st.holdoverLimit * 32768 < (now - x).toInt then
            { k with state := .lapsed, prevLocked := false, lastSample := none, lapseAge := 0 }
          else if k.state ≠ .holdover ∧ st.holdoverEntry * 32768 ≤ (now - x).toInt then
            { k with state := .holdover, prevLocked := decide (k.state = .locked) }
          else k
    let waits := s.store.queue ++ s.store.parked ++ s.store.burst
    let swept : State :=
      { s.enter t with
        nbr := { s.nbr with nextSweep := s.nbr.nextSweep + 32768 }, route := { s.route with trails := aged } }
    ((now - s.nbr.nextSweep).toInt < 0 → exec (.neighborSweep t) s = .next (s.enter t)) ∧
    (0 ≤ (now - s.nbr.nextSweep).toInt →
      (∃ s', exec (.neighborSweep t) s = .next s' ∧
        s'.steady = { (s.enter t).steady with nextSweep := s.nbr.nextSweep + 32768 }) ∧
      (s.nbr.records = [] → (∀ c ∈ s.radio.timeline, c.kind ≠ .refreshListen) →
        exec (.neighborSweep t) s = .next swept) ∧
      ((∀ r ∈ s.nbr.records, r.pinned = true) →
        ∃ s', exec (.neighborSweep t) s = .next s' ∧ s'.route.trails = aged) ∧
      (waits = [] → (s.nbr.records.map (·.address)).Nodup →
        ∃ s', exec (.neighborSweep t) s = .next s' ∧ ∀ r ∈ s.nbr.records,
          let k := tracker r.tracker
          let out := r.pinned = false ∧ ((r.active = false ∧ st.probationTime * 32768 ≤ ageOf (clamp r.admission)) ∨
            (k.state = .lapsed ∧ st.evictionAge < k.lapseAge))
          (out → s'.nbr.find r.address = none) ∧
          (¬out → ∃ r', s'.nbr.find r.address = some r' ∧
            r' = { r with
              tracker := k, admission := clamp r.admission, schedule := r'.schedule, lastTried := r'.lastTried
              hold := r.hold.filter fun e => decide ((now - e).toInt < 0) })) ∧
      ∀ (r : Neighbor) (c : Schedule) (x here b : Tick) (p : Sixteenth) (k : Nat),
        waits = [] → s.nbr.records = [r] → s.route.parents = [{ address := r.address, cost := k }] →
        s.radio.engine = .running → s.radio.stopPending = false →
        (∀ y ∈ s.radio.timeline, y.kind ≠ .refreshListen) → (∀ o, s.radio.op = some o → o.kind ≠ .listen) →
        s.openTo r.address r c b → r.pinned = true → ageOf r.admission < 65535 * 32768 → r.lastTried = none →
        r.tracker.lastSample = some x → st.refreshAge * 32768 < (now - x).toInt → tracker r.tracker = r.tracker →
        r.tracker.remoteNow t = some here → c.beaconExponent ≤ 20 →
        b.toNat % 2 ^ c.beaconExponent = c.phase % 2 ^ c.beaconExponent →
        (b - (here + 64)).toNat < 2 ^ c.beaconExponent → r.tracker.predict b = some p →
        let w := BitVec.ofNat 32 ((r.tracker.guardAt b + 15) / 16 + 4)
        let claim : Claim :=
          { kind := .refreshListen, start := tickOf p - w, stop := some (tickOf p + w), channel := c.beaconChannel
            owner := r.address, instant := b }
        (∀ y ∈ s.radio.timeline, y.kind.isLong = true ∨ claim.overlaps y = false) →
        exec (.neighborSweep t) s = .next { swept with
          nbr := { swept.nbr with places := s.nbr.places.map fun q => q.map fun n => { n with lastTried := some b } }
          radio := { s.radio with timeline := insertBy Claim.before claim s.radio.timeline } })

/-- DISCARD_DEADLINE_EXPIRY and BACKOFF_EXPIRY (R108, R111, R117, R135, R137): a parked frame whose deadline has been
reached leaves DISCARDED, its cell is freed and the own flow state follows the free count, and an originated one
completes its box; a backoff reached is removed. Stated where no box waits, and for a backoff where no recomputation
follows. An event that is not due only moves the clock (the model's choice, assumption log entry 2). A re-evaluation
pass, in RUNNING alone, parks a queued frame whose target is not sendable until the parking limit of its class, and
returns a parked one whose target is to the queue (R106, R107), stated for one frame. -/
def Obligations.FrameExpiries : Prop :=
  (∀ (f : FrameRec) (a : Addr) (s : State),
    let st := s.req.settings
    let done : State := { s with work := { s.work with pass := false } }
    (s.radio.engine ≠ .running → s.pass = done) ∧
    (s.radio.engine = .running → f.binding = .bound a → s.nbr.find a = none ∨ a ∈ s.nbr.bars →
      s.store.queue = [f] → s.store.parked = [] → f.deadline = none →
      (∀ g ∈ s.store.staging ++ s.store.burst, g.serial ≠ f.serial) →
      let limit := (match f.cls with
        | .alarm => st.parkAlarm
        | .control => st.parkControl
        | .bulk => st.parkBulk) * 32768 / (if st.quickDiscard then 8 else 1)
      s.pass = { done with store := { s.store with
        queue := [], parked := [{ f with deadline := some (s.now + BitVec.ofNat 32 limit) }] } }) ∧
    ∀ (r : Neighbor) (c : Schedule) (b d : Tick), s.radio.engine = .running → f.binding = .bound a →
      s.openTo a r c b → r.nextRendezvous s.now16 none = some b → s.store.queue = [] → s.store.parked = [f] →
      f.deadline = some d → (∀ g ∈ s.store.staging ++ s.store.burst, g.serial ≠ f.serial) →
      s.pass = { done with
        store := { s.store with queue := [{ f with deadline := none }], parked := [] }
        work := { done.work with recompute := true } }) ∧
  ∀ (t : Sixteenth) (n : Nat) (s : State),
    ((∀ g ∈ s.store.parked, g.serial = n → ∀ d, g.deadline = some d → (tickOf t - d).toInt < 0) →
      exec (.discardDeadlineExpiry t n) s = .next (s.enter t)) ∧
    (∀ f, s.store.parked.find? (fun g => g.serial = n && g.deadline.any fun d => 0 ≤ (tickOf t - d).toInt) = some f →
      s.port.backlog = [] →
      let others (l : List FrameRec) : List FrameRec := l.filter fun g => g.serial ≠ n
      let cells : Store := { s.store with
        queue := others s.store.queue, parked := others s.store.parked, staging := others s.store.staging
        burst := others s.store.burst }
      let flow : Flow := match s.store.flow with
        | .go => if cells.free ≤ s.req.settings.holdMark then .hold else .go
        | .hold => if s.req.settings.goMark ≤ cells.free then .go else .hold
      let freed : State := { s.enter t with
        store := { cells with flow := flow }
        port := { s.port with
          counters := { s.port.counters with discarded := min 65535 (s.port.counters.discarded + 1) } } }
      (∀ h g x, f.source = .relayed h g x → exec (.discardDeadlineExpiry t n) s = .next freed) ∧
      (∀ b, f.source = .originated b →
        exec (.discardDeadlineExpiry t n) s = .next (freed.finishBox b .discarded
          [f.sequence, BitVec.ofNat 8 f.hopLimit, 0, 0, BitVec.ofNat 8 f.total]))) ∧
    ((∀ g ∈ s.store.queue ++ s.store.parked ++ s.store.burst, g.serial = n →
        ∀ b, g.backoff = some b → (tickOf t - b).toInt < 0) →
      exec (.backoffExpiry t n) s = .next (s.enter t)) ∧
    ((∃ g ∈ s.store.queue ++ s.store.parked ++ s.store.burst, g.serial = n ∧
        ∃ b, g.backoff = some b ∧ 0 ≤ (tickOf t - b).toInt) →
      (∀ g ∈ s.store.queue, g.serial ≠ n) ∨ s.radio.engine ≠ .running ∨ s.radio.stopPending = true ∨
        s.planner.state = .frozen ∨ s.planner.state = .burst →
      let ready (l : List FrameRec) : List FrameRec := l.map fun g => if g.serial = n then { g with backoff := none } else g
      exec (.backoffExpiry t n) s = .next
        { s.enter t with store := { s.store with
            queue := ready s.store.queue, parked := ready s.store.parked, burst := ready s.store.burst } })

/-! ## Frames, trackers and routes -/

/-- Reading a built frame gives the frame back, for every frame whose fields are in the ranges the part sends (R2 to R6, R10,
R11, R191), and the bytes of a built frame stand at the offsets of 12_formats.md, section 12.1, with the check over all
bytes before it at the end, low byte first. The check is the remainder by x^16 + x^12 + x^5 + 1, fed bit by bit from 0xFFFF,
the most significant bit of each byte first, and not inverted; the nine characters "123456789" give 0x29B1; a receiver
reads no frame from bytes whose last two are not the check of those before them (R10). -/
def Obligations.FramesRoundTrip : Prop :=
  let node (a : Addr) : Prop := 0x0001 ≤ a.toNat ∧ a.toNat ≤ 0xFEFF
  let checked (x : List Byte) (n : Nat) : Prop := x.length = n + 2 ∧ leAt x n 2 = (crc16 (x.take n)).toNat
  let feed (c : BitVec 16) (bit : Bool) : BitVec 16 := if c.msb = bit then c <<< 1 else (c <<< 1) ^^^ 0x1021
  let bits (b : Byte) : List Bool := (List.range 8).map fun i => b.getLsbD (7 - i)
  ((∀ x : List Byte, crc16 x = (x.flatMap bits).foldl feed 0xFFFF) ∧
    crc16 [0x31, 0x32, 0x33, 0x34, 0x35, 0x36, 0x37, 0x38, 0x39] = 0x29B1 ∧
    ∀ (x : List Byte) (n : Nat), x.length = n + 2 → leAt x n 2 ≠ (crc16 (x.take n)).toNat → readFrame x = none) ∧
  (∀ d : DataFrame, node d.transmitter → node d.nextHop → node d.origin → d.hopLimit ≤ 15 → 1 ≤ d.payload.length →
    d.payload.length ≤ 96 →
    let x := d.bytes
    readFrame x = some (.data d) ∧
    leAt x 0 1 = 1 + 4 * (match d.cls with | .alarm => 0 | .control => 1 | .bulk => 2) + 128 * d.more.toNat ∧
    leAt x 1 2 = d.transmitter.toNat ∧ leAt x 3 2 = d.nextHop.toNat ∧ leAt x 5 2 = d.origin.toNat ∧
    leAt x 7 2 = d.destination.toNat ∧ byteAt x 9 = d.sequence ∧ leAt x 10 1 = d.hopLimit ∧
    leAt x 11 1 = d.payload.length ∧ (x.drop 12).take d.payload.length = d.payload ∧
    checked x (12 + d.payload.length)) ∧
  (∀ a : AckFrame, node a.transmitter → node a.addressee → -1024 ≤ a.timingError → a.timingError ≤ 1024 → 1 ≤ a.grant →
    a.grant ≤ 4 → a.exponent ≤ 255 →
    let x := a.bytes
    readFrame x = some (.ack a) ∧
    leAt x 0 1 = 2 + 4 * (match a.kind with | .go => 0 | .hold => 1 | .full => 2 | .noroute => 3)
      + (if a.flow = .hold then 16 else 0) ∧
    leAt x 1 2 = a.transmitter.toNat ∧ leAt x 3 2 = a.addressee.toNat ∧ byteAt x 5 = a.sequence ∧
    (word16 x 6).toInt = a.timingError ∧ leAt x 8 1 = a.grant ∧ leAt x 9 1 = a.exponent ∧ byteAt x 10 = a.epoch ∧
    checked x 11) ∧
  (∀ b : BeaconFrame, node b.transmitter → b.number ≤ 255 → b.exponent ≤ 255 → 16 ≤ b.beaconExponent →
    b.beaconExponent ≤ 23 → b.phase ≤ 255 → 8 ≤ b.halfWindow → b.halfWindow ≤ 64 → b.channel ≤ 15 → b.cost ≤ 4095 →
    (b.parent = 0 ∨ node b.parent) → 1 ≤ b.grant → b.grant ≤ 4 → b.applyNumber ≤ 255 →
    let x := b.bytes
    readFrame x = some (.beacon b) ∧
    leAt x 0 1 = 3 + (if b.flow = .hold then 16 else 0) + 32 * (b.grant - 1) ∧ leAt x 1 2 = b.transmitter.toNat ∧
    leAt x 3 2 = 0xFFFF ∧ leAt x 5 4 = b.timestamp.toNat ∧ leAt x 9 1 = b.number ∧ leAt x 10 1 = b.exponent ∧
    leAt x 11 1 = b.channel + 16 * (b.beaconExponent - 16) ∧ leAt x 12 1 = b.phase ∧ leAt x 13 1 = b.halfWindow ∧
    leAt x 14 2 = b.cost ∧ leAt x 16 2 = b.parent.toNat ∧ leAt x 18 2 = b.mask.toNat ∧ byteAt x 20 = b.epoch ∧
    leAt x 21 2 = b.pendingMask.toNat ∧ leAt x 23 1 = b.applyNumber ∧ checked x 24)

/-- A timing sample by the tracker's state (R45 to R50): taken as the anchor by a LAPSED tracker from a beacon and by one
without an anchor; discarded by a LAPSED one from an ACK and when it is not newer than the anchor; otherwise it brings a
tracker in HOLDOVER back to its previous state first, moves anchor and drift by the residual clamped to the slope limit and
the shifts in use, counts an outlier, and takes the lock step on the unclamped residual; a third outlier in a row
re-anchors. The division is the truncating one. What a tracker answers: the prediction (R42), the remote-time estimate
(R43) and the guard by state (R53). The next rendezvous instant (R55): the first beat, no beacon instant, at or after the
estimate plus 64 ticks, and later than a lost-beat mark that the estimate has not passed (R122); its channel, under a
pending mask from its apply instant on (R56). -/
def Obligations.TrackerTakesSamples : Prop :=
  (∀ (k : Tracker) (st : Settings) (src : SampleSource) (r : Tick) (m : Sixteenth) (now : Tick),
    let fresh : Tracker := { k with
      anchor := some (r, m), state := .acquire, prevLocked := false, slow := false, inLock := 0, outliers := 0
      lastSample := some now, lapseAge := 0 }
    (k.state = .lapsed → k.sample st .beacon r m now = (fresh, .reanchored) ∧ k.sample st .ack r m now = (k, .discarded)) ∧
    (k.state ≠ .lapsed → k.anchor = none →
      k.sample st src r m now = ({ k with anchor := some (r, m), lastSample := some now }, .accepted)) ∧
    ∀ (ar : Tick) (al : Sixteenth), k.state ≠ .lapsed → k.anchor = some (ar, al) →
      let delta := (r - ar).toInt
      let p := al + BitVec.ofInt 36 (16 * delta + (delta * k.drift + 524288) / 1048576)
      let e := (m - p).toInt
      let limit := 16 + delta * st.slopeLimit / 1048576
      (delta ≤ 0 → k.sample st src r m now = (k, .discarded)) ∧
      (0 < delta → k.state = .holdover → k.sample st src r m now =
        { k with state := if k.prevLocked then .locked else .acquire, prevLocked := false }.sample st src r m now) ∧
      (0 < delta → k.state ≠ .holdover →
        (limit < e.natAbs → 2 ≤ k.outliers →
          k.sample st src r m now =
            ({ fresh with lockLoss := if k.state = .locked then min 15 (k.lockLoss + 1) else k.lockLoss },
              .reanchored)) ∧
        (e.natAbs ≤ limit ∨ k.outliers < 2 →
          let clamped := max (-limit) (min limit e)
          let ka := if k.slow then st.slowAnchorShift else st.fastAnchorShift
          let kd := if k.slow then st.slowDriftShift else st.fastDriftShift
          let run := if e.natAbs ≤ st.lockThreshold then min 15 (k.inLock + 1) else 0
          let moved : Tracker := { k with
            outliers := if limit < e.natAbs then k.outliers + 1 else 0
            anchor := some (r, p + BitVec.ofInt 36 (Int.tdiv clamped (2 ^ ka)))
            drift := if delta < 1024 then k.drift
              else max (-4096) (min 4096 (k.drift + Int.tdiv (Int.tdiv (clamped * 1048576) delta) (2 ^ kd)))
            lastSample := some now }
          k.sample st src r m now =
            (if k.state = .locked ∧ 4 * st.lockThreshold < e.natAbs then
              { moved with state := .acquire, slow := false, inLock := 0, lockLoss := min 15 (k.lockLoss + 1) }
            else
              { moved with
                inLock := run
                slow := k.slow || decide (st.lockCount / 2 ≤ run)
                state := if st.lockCount ≤ run then .locked else k.state }, .accepted)))) ∧
  (∀ (k : Tracker) (x : Tick) (t : Sixteenth),
    (k.state = .lapsed ∨ k.anchor = none → k.predict x = none ∧ k.remoteNow t = none) ∧
    ∀ (ar : Tick) (al : Sixteenth), k.anchor = some (ar, al) → k.state ≠ .lapsed →
      let delta := (x - ar).toInt
      let d := (t - al).toInt / 16
      k.predict x = some (al + BitVec.ofInt 36 (16 * delta + (delta * k.drift + 524288) / 1048576)) ∧
      k.remoteNow t = some (ar + BitVec.ofInt 32 (d - (d * k.drift + 8388608) / 16777216)) ∧
      k.guardAt x = 8 + delta.natAbs * (match k.state with
        | .acquire => 3355
        | .locked => 839
        | .holdover => 1678
        | .lapsed => 0) / 1048576) ∧
  ∀ (r : Neighbor) (c : Schedule) (t : Sixteenth), r.schedule = some c →
    (r.tracker.remoteNow t = none → ∀ mark, r.nextRendezvous t mark = none) ∧
    (∀ here, r.tracker.remoteNow t = some here → c.exponent ≤ 16 → c.exponent < c.beaconExponent →
      c.beaconExponent ≤ 20 →
      let on (n : Nat) (b : Tick) : Prop := b.toNat % 2 ^ n = c.phase % 2 ^ n
      let first (lo b : Tick) : Prop := on c.exponent b ∧ ¬on c.beaconExponent b ∧
        ∀ b', on c.exponent b' → ¬on c.beaconExponent b' → (b - lo).toNat ≤ (b' - lo).toNat
      (∃ b, r.nextRendezvous t none = some b ∧ first (here + 64) b) ∧
      ∀ m : Tick,
        (0 ≤ (here - m).toInt → r.nextRendezvous t (some m) = r.nextRendezvous t none) ∧
        ((here - m).toInt < 0 → ∃ b, r.nextRendezvous t (some m) = some b ∧
          first (if 0 ≤ (here + 64 - (m + 1)).toInt then here + 64 else m + 1) b)) ∧
    ∀ b : Tick, r.channelAt b = beatChannel r.address
      (match c.pending with
        | some q => if 0 ≤ (b - q.instant).toInt then q.mask else c.mask
        | none => c.mask) c.beaconChannel b

/-- Route review (R82 to R86): at most three parents, each a candidate at its candidate cost; the second and the third are
the cheapest of the others, the lower address between equals; the former first parent stays unless another is cheaper by
more than the hysteresis; own U is 0 for a gateway and otherwise the first parent's cost, 4,095 with none. While no two
records share an address, no member is listed twice, the second comes before the third in that order, and a first parent
that is not the former one is the candidate of lowest cost, and of lowest address between equals, the former one apart.
What the review reports (R87): a change of an address, a rank or a cost calls for a pass and a recomputation, a change of
the first parent raises the PARENT notice where its code is enabled, and nothing else is reported. -/
def Obligations.RouteReviewChoosesParents : Prop :=
  ∀ s : State, s.work.oldParents = none →
    let st := s.req.settings
    let ps := s.review.route.parents
    let former := s.route.parents.head?.map (·.address)
    let cost (n : Neighbor) : Nat :=
      min 4095 (n.cost + (if n.q < 256 then 256 else 65536 / n.q) + st.hopPenalty + (if n.untried then 16 else 0)
        + (if st.unsteady ≤ n.tracker.lockLoss then 32 else 0))
    let candidate (n : Neighbor) : Prop :=
      n ∈ s.nbr.records ∧ st.gateway = false ∧ n.active = true ∧ n.tracker.state ≠ .lapsed ∧ n.cost < 4095 ∧
        n.parent ≠ st.ownAddress ∧ n.poisoned = false ∧ cost n < 4095
    ps.length ≤ 3 ∧
    (∀ p ∈ ps, ∃ n, candidate n ∧ n.address = p.address ∧ cost n = p.cost) ∧
    (ps = [] → ∀ n, ¬candidate n) ∧
    (∀ f rest, ps = f :: rest →
      (∀ n, candidate n → n.address ≠ f.address → (∀ p ∈ rest, n.address ≠ p.address) →
        rest.length = 2 ∧ ∀ p ∈ rest, p.cost < cost n ∨ (p.cost = cost n ∧ p.address.toNat < n.address.toNat)) ∧
      (∀ n, candidate n → n.address ≠ f.address →
        (former = some f.address → f.cost ≤ cost n + st.hysteresis) ∧
        (former = some n.address →
          (∀ x, candidate x → x.address = n.address → x = n) → f.cost + st.hysteresis < cost n))) ∧
    ((s.nbr.records.map (·.address)).Nodup →
      (ps.map (·.address)).Nodup ∧
      (∀ f x y, ps = [f, x, y] → x.cost < y.cost ∨ (x.cost = y.cost ∧ x.address.toNat < y.address.toNat)) ∧
      ∀ f rest, ps = f :: rest → former ≠ some f.address → ∀ n, candidate n → former ≠ some n.address →
        f.cost < cost n ∨ (f.cost = cost n ∧ f.address.toNat ≤ n.address.toNat)) ∧
    s.review.route.ownU = (if st.gateway then 0 else (ps.head?.map (·.cost)).getD 4095) ∧
    s.review.route.trails = s.route.trails ∧
    s.review.work = (if ps = s.route.parents then { s.work with review := false }
      else { s.work with review := false, pass := true, recompute := true }) ∧
    (let first (l : List Parent) : Addr := (l.head?.map (·.address)).getD 0
     (first ps = first s.route.parents ∨ st.noticeMask.getLsbD 0 = false →
        s.review.req = s.req ∧ s.review.port = s.port) ∧
     (first ps ≠ first s.route.parents → st.noticeMask.getLsbD 0 = true → s.port.lent = [] → s.req.notices.length < 8 →
        s.review.req.notices = s.req.notices ++
          [{ event := .parent (first s.route.parents) (first ps) s.review.route.ownU, tick := s.now }]))
end

