-- ==== Sys2Proof/Laws/State.lean ====
section
/-! SUPPORT. One lemma per field for each named update of the state; later proofs unfold no record update. -/

namespace Sys2Proof.Machine

variable (s : State)

/-! ### `State.radioWith` -/

@[simp] theorem State.radioWith_now16 (f : Radio → Radio) : (s.radioWith f).now16 = s.now16 := rfl
@[simp] theorem State.radioWith_radio (f : Radio → Radio) : (s.radioWith f).radio = f s.radio := rfl
@[simp] theorem State.radioWith_sched (f : Radio → Radio) : (s.radioWith f).sched = s.sched := rfl
@[simp] theorem State.radioWith_nbr (f : Radio → Radio) : (s.radioWith f).nbr = s.nbr := rfl
@[simp] theorem State.radioWith_route (f : Radio → Radio) : (s.radioWith f).route = s.route := rfl
@[simp] theorem State.radioWith_store (f : Radio → Radio) : (s.radioWith f).store = s.store := rfl
@[simp] theorem State.radioWith_planner (f : Radio → Radio) : (s.radioWith f).planner = s.planner := rfl
@[simp] theorem State.radioWith_recv (f : Radio → Radio) : (s.radioWith f).recv = s.recv := rfl
@[simp] theorem State.radioWith_port (f : Radio → Radio) : (s.radioWith f).port = s.port := rfl
@[simp] theorem State.radioWith_req (f : Radio → Radio) : (s.radioWith f).req = s.req := rfl
@[simp] theorem State.radioWith_draws (f : Radio → Radio) : (s.radioWith f).draws = s.draws := rfl
@[simp] theorem State.radioWith_work (f : Radio → Radio) : (s.radioWith f).work = s.work := rfl
@[simp] theorem State.radioWith_pending (f : Radio → Radio) : (s.radioWith f).pending = s.pending := rfl

/-! ### `State.timelineWith` -/

@[simp] theorem State.timelineWith_now16 (f : List Claim → List Claim) : (s.timelineWith f).now16 = s.now16 := rfl
@[simp] theorem State.timelineWith_sched (f : List Claim → List Claim) : (s.timelineWith f).sched = s.sched := rfl
@[simp] theorem State.timelineWith_nbr (f : List Claim → List Claim) : (s.timelineWith f).nbr = s.nbr := rfl
@[simp] theorem State.timelineWith_route (f : List Claim → List Claim) : (s.timelineWith f).route = s.route := rfl
@[simp] theorem State.timelineWith_store (f : List Claim → List Claim) : (s.timelineWith f).store = s.store := rfl
@[simp] theorem State.timelineWith_planner (f : List Claim → List Claim) : (s.timelineWith f).planner = s.planner := rfl
@[simp] theorem State.timelineWith_recv (f : List Claim → List Claim) : (s.timelineWith f).recv = s.recv := rfl
@[simp] theorem State.timelineWith_port (f : List Claim → List Claim) : (s.timelineWith f).port = s.port := rfl
@[simp] theorem State.timelineWith_req (f : List Claim → List Claim) : (s.timelineWith f).req = s.req := rfl
@[simp] theorem State.timelineWith_draws (f : List Claim → List Claim) : (s.timelineWith f).draws = s.draws := rfl
@[simp] theorem State.timelineWith_work (f : List Claim → List Claim) : (s.timelineWith f).work = s.work := rfl
@[simp] theorem State.timelineWith_pending (f : List Claim → List Claim) : (s.timelineWith f).pending = s.pending := rfl

/-! ### `State.dropClaims` -/

@[simp] theorem State.dropClaims_now16 (p : Claim → Bool) : (s.dropClaims p).now16 = s.now16 := rfl
@[simp] theorem State.dropClaims_sched (p : Claim → Bool) : (s.dropClaims p).sched = s.sched := rfl
@[simp] theorem State.dropClaims_nbr (p : Claim → Bool) : (s.dropClaims p).nbr = s.nbr := rfl
@[simp] theorem State.dropClaims_route (p : Claim → Bool) : (s.dropClaims p).route = s.route := rfl
@[simp] theorem State.dropClaims_store (p : Claim → Bool) : (s.dropClaims p).store = s.store := rfl
@[simp] theorem State.dropClaims_planner (p : Claim → Bool) : (s.dropClaims p).planner = s.planner := rfl
@[simp] theorem State.dropClaims_recv (p : Claim → Bool) : (s.dropClaims p).recv = s.recv := rfl
@[simp] theorem State.dropClaims_port (p : Claim → Bool) : (s.dropClaims p).port = s.port := rfl
@[simp] theorem State.dropClaims_req (p : Claim → Bool) : (s.dropClaims p).req = s.req := rfl
@[simp] theorem State.dropClaims_draws (p : Claim → Bool) : (s.dropClaims p).draws = s.draws := rfl
@[simp] theorem State.dropClaims_work (p : Claim → Bool) : (s.dropClaims p).work = s.work := rfl
@[simp] theorem State.dropClaims_pending (p : Claim → Bool) : (s.dropClaims p).pending = s.pending := rfl

/-! ### `State.issue` -/

@[simp] theorem State.issue_now16 (o : Operation) : (s.issue o).now16 = s.now16 := rfl
@[simp] theorem State.issue_sched (o : Operation) : (s.issue o).sched = s.sched := rfl
@[simp] theorem State.issue_nbr (o : Operation) : (s.issue o).nbr = s.nbr := rfl
@[simp] theorem State.issue_route (o : Operation) : (s.issue o).route = s.route := rfl
@[simp] theorem State.issue_store (o : Operation) : (s.issue o).store = s.store := rfl
@[simp] theorem State.issue_planner (o : Operation) : (s.issue o).planner = s.planner := rfl
@[simp] theorem State.issue_recv (o : Operation) : (s.issue o).recv = s.recv := rfl
@[simp] theorem State.issue_port (o : Operation) : (s.issue o).port = s.port := rfl
@[simp] theorem State.issue_req (o : Operation) : (s.issue o).req = s.req := rfl
@[simp] theorem State.issue_draws (o : Operation) : (s.issue o).draws = s.draws := rfl
@[simp] theorem State.issue_work (o : Operation) : (s.issue o).work = s.work := rfl
@[simp] theorem State.issue_pending (o : Operation) : (s.issue o).pending = s.pending := rfl
@[simp] theorem State.issue_radio (o : Operation) :
    (s.issue o).radio
      = if s.radio.op.isSome then { s.radio with waiting := some o } else { s.radio with op := some o } := rfl

/-! ### `State.overtake` -/

@[simp] theorem State.overtake_now16 (a : Addr) : (s.overtake a).now16 = s.now16 := rfl
@[simp] theorem State.overtake_sched (a : Addr) : (s.overtake a).sched = s.sched := rfl
@[simp] theorem State.overtake_nbr (a : Addr) : (s.overtake a).nbr = s.nbr := rfl
@[simp] theorem State.overtake_route (a : Addr) : (s.overtake a).route = s.route := rfl
@[simp] theorem State.overtake_store (a : Addr) : (s.overtake a).store = s.store := rfl
@[simp] theorem State.overtake_planner (a : Addr) : (s.overtake a).planner = s.planner := rfl
@[simp] theorem State.overtake_recv (a : Addr) : (s.overtake a).recv = s.recv := rfl
@[simp] theorem State.overtake_port (a : Addr) : (s.overtake a).port = s.port := rfl
@[simp] theorem State.overtake_req (a : Addr) : (s.overtake a).req = s.req := rfl
@[simp] theorem State.overtake_draws (a : Addr) : (s.overtake a).draws = s.draws := rfl
@[simp] theorem State.overtake_work (a : Addr) : (s.overtake a).work = s.work := rfl
@[simp] theorem State.overtake_pending (a : Addr) : (s.overtake a).pending = s.pending := rfl
@[simp] theorem State.overtake_op (a : Addr) : (s.overtake a).radio.op = s.radio.op := rfl
@[simp] theorem State.overtake_waiting (a : Addr) : (s.overtake a).radio.waiting = s.radio.waiting := rfl
@[simp] theorem State.overtake_engine (a : Addr) : (s.overtake a).radio.engine = s.radio.engine := rfl

/-! ### `State.cutListen` -/

@[simp] theorem State.cutListen_now16 : s.cutListen.now16 = s.now16 := rfl
@[simp] theorem State.cutListen_sched : s.cutListen.sched = s.sched := rfl
@[simp] theorem State.cutListen_nbr : s.cutListen.nbr = s.nbr := rfl
@[simp] theorem State.cutListen_route : s.cutListen.route = s.route := rfl
@[simp] theorem State.cutListen_store : s.cutListen.store = s.store := rfl
@[simp] theorem State.cutListen_planner : s.cutListen.planner = s.planner := rfl
@[simp] theorem State.cutListen_recv : s.cutListen.recv = s.recv := rfl
@[simp] theorem State.cutListen_port : s.cutListen.port = s.port := rfl
@[simp] theorem State.cutListen_req : s.cutListen.req = s.req := rfl
@[simp] theorem State.cutListen_draws : s.cutListen.draws = s.draws := rfl
@[simp] theorem State.cutListen_work : s.cutListen.work = s.work := rfl
@[simp] theorem State.cutListen_pending : s.cutListen.pending = s.pending := rfl

/-! ### `State.retuneListen` -/

@[simp] theorem State.retuneListen_now16 : s.retuneListen.now16 = s.now16 := rfl
@[simp] theorem State.retuneListen_sched : s.retuneListen.sched = s.sched := rfl
@[simp] theorem State.retuneListen_nbr : s.retuneListen.nbr = s.nbr := rfl
@[simp] theorem State.retuneListen_route : s.retuneListen.route = s.route := rfl
@[simp] theorem State.retuneListen_store : s.retuneListen.store = s.store := rfl
@[simp] theorem State.retuneListen_planner : s.retuneListen.planner = s.planner := rfl
@[simp] theorem State.retuneListen_recv : s.retuneListen.recv = s.recv := rfl
@[simp] theorem State.retuneListen_port : s.retuneListen.port = s.port := rfl
@[simp] theorem State.retuneListen_req : s.retuneListen.req = s.req := rfl
@[simp] theorem State.retuneListen_draws : s.retuneListen.draws = s.draws := rfl
@[simp] theorem State.retuneListen_work : s.retuneListen.work = s.work := rfl
@[simp] theorem State.retuneListen_pending : s.retuneListen.pending = s.pending := rfl
@[simp] theorem State.retuneListen_engine : s.retuneListen.radio.engine = s.radio.engine := rfl
@[simp] theorem State.retuneListen_op : s.retuneListen.radio.op = s.radio.op := rfl
@[simp] theorem State.retuneListen_waiting : s.retuneListen.radio.waiting = s.radio.waiting := rfl

/-! ### `State.storeWith` -/

@[simp] theorem State.storeWith_now16 (f : Store → Store) : (s.storeWith f).now16 = s.now16 := rfl
@[simp] theorem State.storeWith_radio (f : Store → Store) : (s.storeWith f).radio = s.radio := rfl
@[simp] theorem State.storeWith_sched (f : Store → Store) : (s.storeWith f).sched = s.sched := rfl
@[simp] theorem State.storeWith_nbr (f : Store → Store) : (s.storeWith f).nbr = s.nbr := rfl
@[simp] theorem State.storeWith_route (f : Store → Store) : (s.storeWith f).route = s.route := rfl
@[simp] theorem State.storeWith_store (f : Store → Store) : (s.storeWith f).store = f s.store := rfl
@[simp] theorem State.storeWith_planner (f : Store → Store) : (s.storeWith f).planner = s.planner := rfl
@[simp] theorem State.storeWith_recv (f : Store → Store) : (s.storeWith f).recv = s.recv := rfl
@[simp] theorem State.storeWith_port (f : Store → Store) : (s.storeWith f).port = s.port := rfl
@[simp] theorem State.storeWith_req (f : Store → Store) : (s.storeWith f).req = s.req := rfl
@[simp] theorem State.storeWith_draws (f : Store → Store) : (s.storeWith f).draws = s.draws := rfl
@[simp] theorem State.storeWith_work (f : Store → Store) : (s.storeWith f).work = s.work := rfl
@[simp] theorem State.storeWith_pending (f : Store → Store) : (s.storeWith f).pending = s.pending := rfl

/-! ### `State.planWith` -/

@[simp] theorem State.planWith_now16 (f : Planner → Planner) : (s.planWith f).now16 = s.now16 := rfl
@[simp] theorem State.planWith_radio (f : Planner → Planner) : (s.planWith f).radio = s.radio := rfl
@[simp] theorem State.planWith_sched (f : Planner → Planner) : (s.planWith f).sched = s.sched := rfl
@[simp] theorem State.planWith_nbr (f : Planner → Planner) : (s.planWith f).nbr = s.nbr := rfl
@[simp] theorem State.planWith_route (f : Planner → Planner) : (s.planWith f).route = s.route := rfl
@[simp] theorem State.planWith_store (f : Planner → Planner) : (s.planWith f).store = s.store := rfl
@[simp] theorem State.planWith_planner (f : Planner → Planner) : (s.planWith f).planner = f s.planner := rfl
@[simp] theorem State.planWith_recv (f : Planner → Planner) : (s.planWith f).recv = s.recv := rfl
@[simp] theorem State.planWith_port (f : Planner → Planner) : (s.planWith f).port = s.port := rfl
@[simp] theorem State.planWith_req (f : Planner → Planner) : (s.planWith f).req = s.req := rfl
@[simp] theorem State.planWith_draws (f : Planner → Planner) : (s.planWith f).draws = s.draws := rfl
@[simp] theorem State.planWith_work (f : Planner → Planner) : (s.planWith f).work = s.work := rfl
@[simp] theorem State.planWith_pending (f : Planner → Planner) : (s.planWith f).pending = s.pending := rfl

/-! ### `State.portWith` -/

@[simp] theorem State.portWith_now16 (f : Port → Port) : (s.portWith f).now16 = s.now16 := rfl
@[simp] theorem State.portWith_radio (f : Port → Port) : (s.portWith f).radio = s.radio := rfl
@[simp] theorem State.portWith_sched (f : Port → Port) : (s.portWith f).sched = s.sched := rfl
@[simp] theorem State.portWith_nbr (f : Port → Port) : (s.portWith f).nbr = s.nbr := rfl
@[simp] theorem State.portWith_route (f : Port → Port) : (s.portWith f).route = s.route := rfl
@[simp] theorem State.portWith_store (f : Port → Port) : (s.portWith f).store = s.store := rfl
@[simp] theorem State.portWith_planner (f : Port → Port) : (s.portWith f).planner = s.planner := rfl
@[simp] theorem State.portWith_recv (f : Port → Port) : (s.portWith f).recv = s.recv := rfl
@[simp] theorem State.portWith_port (f : Port → Port) : (s.portWith f).port = f s.port := rfl
@[simp] theorem State.portWith_req (f : Port → Port) : (s.portWith f).req = s.req := rfl
@[simp] theorem State.portWith_draws (f : Port → Port) : (s.portWith f).draws = s.draws := rfl
@[simp] theorem State.portWith_work (f : Port → Port) : (s.portWith f).work = s.work := rfl
@[simp] theorem State.portWith_pending (f : Port → Port) : (s.portWith f).pending = s.pending := rfl

/-! ### `State.nbrWith` -/

@[simp] theorem State.nbrWith_now16 (f : NbrUnit → NbrUnit) : (s.nbrWith f).now16 = s.now16 := rfl
@[simp] theorem State.nbrWith_radio (f : NbrUnit → NbrUnit) : (s.nbrWith f).radio = s.radio := rfl
@[simp] theorem State.nbrWith_sched (f : NbrUnit → NbrUnit) : (s.nbrWith f).sched = s.sched := rfl
@[simp] theorem State.nbrWith_nbr (f : NbrUnit → NbrUnit) : (s.nbrWith f).nbr = f s.nbr := rfl
@[simp] theorem State.nbrWith_route (f : NbrUnit → NbrUnit) : (s.nbrWith f).route = s.route := rfl
@[simp] theorem State.nbrWith_store (f : NbrUnit → NbrUnit) : (s.nbrWith f).store = s.store := rfl
@[simp] theorem State.nbrWith_planner (f : NbrUnit → NbrUnit) : (s.nbrWith f).planner = s.planner := rfl
@[simp] theorem State.nbrWith_recv (f : NbrUnit → NbrUnit) : (s.nbrWith f).recv = s.recv := rfl
@[simp] theorem State.nbrWith_port (f : NbrUnit → NbrUnit) : (s.nbrWith f).port = s.port := rfl
@[simp] theorem State.nbrWith_req (f : NbrUnit → NbrUnit) : (s.nbrWith f).req = s.req := rfl
@[simp] theorem State.nbrWith_draws (f : NbrUnit → NbrUnit) : (s.nbrWith f).draws = s.draws := rfl
@[simp] theorem State.nbrWith_work (f : NbrUnit → NbrUnit) : (s.nbrWith f).work = s.work := rfl
@[simp] theorem State.nbrWith_pending (f : NbrUnit → NbrUnit) : (s.nbrWith f).pending = s.pending := rfl

/-! ### `State.updNbr` -/

@[simp] theorem State.updNbr_now16 (a : Addr) (f : Neighbor → Neighbor) : (s.updNbr a f).now16 = s.now16 := rfl
@[simp] theorem State.updNbr_radio (a : Addr) (f : Neighbor → Neighbor) : (s.updNbr a f).radio = s.radio := rfl
@[simp] theorem State.updNbr_sched (a : Addr) (f : Neighbor → Neighbor) : (s.updNbr a f).sched = s.sched := rfl
@[simp] theorem State.updNbr_nbr (a : Addr) (f : Neighbor → Neighbor) : (s.updNbr a f).nbr = s.nbr.update a f := rfl
@[simp] theorem State.updNbr_route (a : Addr) (f : Neighbor → Neighbor) : (s.updNbr a f).route = s.route := rfl
@[simp] theorem State.updNbr_store (a : Addr) (f : Neighbor → Neighbor) : (s.updNbr a f).store = s.store := rfl
@[simp] theorem State.updNbr_planner (a : Addr) (f : Neighbor → Neighbor) : (s.updNbr a f).planner = s.planner := rfl
@[simp] theorem State.updNbr_recv (a : Addr) (f : Neighbor → Neighbor) : (s.updNbr a f).recv = s.recv := rfl
@[simp] theorem State.updNbr_port (a : Addr) (f : Neighbor → Neighbor) : (s.updNbr a f).port = s.port := rfl
@[simp] theorem State.updNbr_req (a : Addr) (f : Neighbor → Neighbor) : (s.updNbr a f).req = s.req := rfl
@[simp] theorem State.updNbr_draws (a : Addr) (f : Neighbor → Neighbor) : (s.updNbr a f).draws = s.draws := rfl
@[simp] theorem State.updNbr_work (a : Addr) (f : Neighbor → Neighbor) : (s.updNbr a f).work = s.work := rfl
@[simp] theorem State.updNbr_pending (a : Addr) (f : Neighbor → Neighbor) : (s.updNbr a f).pending = s.pending := rfl

/-! ### `State.count` -/

@[simp] theorem State.count_now16 (f : Counters → Counters) : (s.count f).now16 = s.now16 := rfl
@[simp] theorem State.count_radio (f : Counters → Counters) : (s.count f).radio = s.radio := rfl
@[simp] theorem State.count_sched (f : Counters → Counters) : (s.count f).sched = s.sched := rfl
@[simp] theorem State.count_nbr (f : Counters → Counters) : (s.count f).nbr = s.nbr := rfl
@[simp] theorem State.count_route (f : Counters → Counters) : (s.count f).route = s.route := rfl
@[simp] theorem State.count_store (f : Counters → Counters) : (s.count f).store = s.store := rfl
@[simp] theorem State.count_planner (f : Counters → Counters) : (s.count f).planner = s.planner := rfl
@[simp] theorem State.count_recv (f : Counters → Counters) : (s.count f).recv = s.recv := rfl
@[simp] theorem State.count_req (f : Counters → Counters) : (s.count f).req = s.req := rfl
@[simp] theorem State.count_draws (f : Counters → Counters) : (s.count f).draws = s.draws := rfl
@[simp] theorem State.count_work (f : Counters → Counters) : (s.count f).work = s.work := rfl
@[simp] theorem State.count_pending (f : Counters → Counters) : (s.count f).pending = s.pending := rfl

/-! ### `State.flag` -/

@[simp] theorem State.flag_now16 (f : FaultFlags → FaultFlags) : (s.flag f).now16 = s.now16 := rfl
@[simp] theorem State.flag_radio (f : FaultFlags → FaultFlags) : (s.flag f).radio = s.radio := rfl
@[simp] theorem State.flag_sched (f : FaultFlags → FaultFlags) : (s.flag f).sched = s.sched := rfl
@[simp] theorem State.flag_nbr (f : FaultFlags → FaultFlags) : (s.flag f).nbr = s.nbr := rfl
@[simp] theorem State.flag_route (f : FaultFlags → FaultFlags) : (s.flag f).route = s.route := rfl
@[simp] theorem State.flag_store (f : FaultFlags → FaultFlags) : (s.flag f).store = s.store := rfl
@[simp] theorem State.flag_planner (f : FaultFlags → FaultFlags) : (s.flag f).planner = s.planner := rfl
@[simp] theorem State.flag_recv (f : FaultFlags → FaultFlags) : (s.flag f).recv = s.recv := rfl
@[simp] theorem State.flag_req (f : FaultFlags → FaultFlags) : (s.flag f).req = s.req := rfl
@[simp] theorem State.flag_draws (f : FaultFlags → FaultFlags) : (s.flag f).draws = s.draws := rfl
@[simp] theorem State.flag_work (f : FaultFlags → FaultFlags) : (s.flag f).work = s.work := rfl
@[simp] theorem State.flag_pending (f : FaultFlags → FaultFlags) : (s.flag f).pending = s.pending := rfl

/-! ### `State.attend` -/

@[simp] theorem State.attend_now16 (f : Attention → Attention) : (s.attend f).now16 = s.now16 := rfl
@[simp] theorem State.attend_radio (f : Attention → Attention) : (s.attend f).radio = s.radio := rfl
@[simp] theorem State.attend_sched (f : Attention → Attention) : (s.attend f).sched = s.sched := rfl
@[simp] theorem State.attend_nbr (f : Attention → Attention) : (s.attend f).nbr = s.nbr := rfl
@[simp] theorem State.attend_route (f : Attention → Attention) : (s.attend f).route = s.route := rfl
@[simp] theorem State.attend_store (f : Attention → Attention) : (s.attend f).store = s.store := rfl
@[simp] theorem State.attend_planner (f : Attention → Attention) : (s.attend f).planner = s.planner := rfl
@[simp] theorem State.attend_recv (f : Attention → Attention) : (s.attend f).recv = s.recv := rfl
@[simp] theorem State.attend_req (f : Attention → Attention) : (s.attend f).req = s.req := rfl
@[simp] theorem State.attend_draws (f : Attention → Attention) : (s.attend f).draws = s.draws := rfl
@[simp] theorem State.attend_work (f : Attention → Attention) : (s.attend f).work = s.work := rfl
@[simp] theorem State.attend_pending (f : Attention → Attention) : (s.attend f).pending = s.pending := rfl

/-! ### `State.callScan` -/

@[simp] theorem State.callScan_now16 : (s.callScan).now16 = s.now16 := rfl
@[simp] theorem State.callScan_radio : (s.callScan).radio = s.radio := rfl
@[simp] theorem State.callScan_sched : (s.callScan).sched = s.sched := rfl
@[simp] theorem State.callScan_nbr : (s.callScan).nbr = s.nbr := rfl
@[simp] theorem State.callScan_route : (s.callScan).route = s.route := rfl
@[simp] theorem State.callScan_store : (s.callScan).store = s.store := rfl
@[simp] theorem State.callScan_planner : (s.callScan).planner = s.planner := rfl
@[simp] theorem State.callScan_recv : (s.callScan).recv = s.recv := rfl
@[simp] theorem State.callScan_port : (s.callScan).port = s.port := rfl
@[simp] theorem State.callScan_req : (s.callScan).req = s.req := rfl
@[simp] theorem State.callScan_draws : (s.callScan).draws = s.draws := rfl
@[simp] theorem State.callScan_work : (s.callScan).work = { s.work with scan := true } := rfl
@[simp] theorem State.callScan_pending : (s.callScan).pending = s.pending := rfl

/-! ### `State.callReview` -/

@[simp] theorem State.callReview_now16 : (s.callReview).now16 = s.now16 := rfl
@[simp] theorem State.callReview_radio : (s.callReview).radio = s.radio := rfl
@[simp] theorem State.callReview_sched : (s.callReview).sched = s.sched := rfl
@[simp] theorem State.callReview_nbr : (s.callReview).nbr = s.nbr := rfl
@[simp] theorem State.callReview_route : (s.callReview).route = s.route := rfl
@[simp] theorem State.callReview_store : (s.callReview).store = s.store := rfl
@[simp] theorem State.callReview_planner : (s.callReview).planner = s.planner := rfl
@[simp] theorem State.callReview_recv : (s.callReview).recv = s.recv := rfl
@[simp] theorem State.callReview_port : (s.callReview).port = s.port := rfl
@[simp] theorem State.callReview_req : (s.callReview).req = s.req := rfl
@[simp] theorem State.callReview_draws : (s.callReview).draws = s.draws := rfl
@[simp] theorem State.callReview_work : (s.callReview).work = { s.work with review := true } := rfl
@[simp] theorem State.callReview_pending : (s.callReview).pending = s.pending := rfl

/-! ### `State.callPass` -/

@[simp] theorem State.callPass_now16 : (s.callPass).now16 = s.now16 := rfl
@[simp] theorem State.callPass_radio : (s.callPass).radio = s.radio := rfl
@[simp] theorem State.callPass_sched : (s.callPass).sched = s.sched := rfl
@[simp] theorem State.callPass_nbr : (s.callPass).nbr = s.nbr := rfl
@[simp] theorem State.callPass_route : (s.callPass).route = s.route := rfl
@[simp] theorem State.callPass_store : (s.callPass).store = s.store := rfl
@[simp] theorem State.callPass_planner : (s.callPass).planner = s.planner := rfl
@[simp] theorem State.callPass_recv : (s.callPass).recv = s.recv := rfl
@[simp] theorem State.callPass_port : (s.callPass).port = s.port := rfl
@[simp] theorem State.callPass_req : (s.callPass).req = s.req := rfl
@[simp] theorem State.callPass_draws : (s.callPass).draws = s.draws := rfl
@[simp] theorem State.callPass_work : (s.callPass).work = { s.work with pass := true } := rfl
@[simp] theorem State.callPass_pending : (s.callPass).pending = s.pending := rfl

/-! ### `State.callRecompute` -/

@[simp] theorem State.callRecompute_now16 : (s.callRecompute).now16 = s.now16 := rfl
@[simp] theorem State.callRecompute_radio : (s.callRecompute).radio = s.radio := rfl
@[simp] theorem State.callRecompute_sched : (s.callRecompute).sched = s.sched := rfl
@[simp] theorem State.callRecompute_nbr : (s.callRecompute).nbr = s.nbr := rfl
@[simp] theorem State.callRecompute_route : (s.callRecompute).route = s.route := rfl
@[simp] theorem State.callRecompute_store : (s.callRecompute).store = s.store := rfl
@[simp] theorem State.callRecompute_planner : (s.callRecompute).planner = s.planner := rfl
@[simp] theorem State.callRecompute_recv : (s.callRecompute).recv = s.recv := rfl
@[simp] theorem State.callRecompute_port : (s.callRecompute).port = s.port := rfl
@[simp] theorem State.callRecompute_req : (s.callRecompute).req = s.req := rfl
@[simp] theorem State.callRecompute_draws : (s.callRecompute).draws = s.draws := rfl
@[simp] theorem State.callRecompute_work : (s.callRecompute).work = { s.work with recompute := true } := rfl
@[simp] theorem State.callRecompute_pending : (s.callRecompute).pending = s.pending := rfl

/-! ### `State.callListen` -/

@[simp] theorem State.callListen_now16 (t : Tick) : (s.callListen t).now16 = s.now16 := rfl
@[simp] theorem State.callListen_radio (t : Tick) : (s.callListen t).radio = s.radio := rfl
@[simp] theorem State.callListen_sched (t : Tick) : (s.callListen t).sched = s.sched := rfl
@[simp] theorem State.callListen_nbr (t : Tick) : (s.callListen t).nbr = s.nbr := rfl
@[simp] theorem State.callListen_route (t : Tick) : (s.callListen t).route = s.route := rfl
@[simp] theorem State.callListen_store (t : Tick) : (s.callListen t).store = s.store := rfl
@[simp] theorem State.callListen_planner (t : Tick) : (s.callListen t).planner = s.planner := rfl
@[simp] theorem State.callListen_recv (t : Tick) : (s.callListen t).recv = s.recv := rfl
@[simp] theorem State.callListen_port (t : Tick) : (s.callListen t).port = s.port := rfl
@[simp] theorem State.callListen_req (t : Tick) : (s.callListen t).req = s.req := rfl
@[simp] theorem State.callListen_draws (t : Tick) : (s.callListen t).draws = s.draws := rfl
@[simp] theorem State.callListen_work (t : Tick) : (s.callListen t).work = { s.work with placeListen := some t } := rfl
@[simp] theorem State.callListen_pending (t : Tick) : (s.callListen t).pending = s.pending := rfl

/-! ### The ports' own updates -/

@[simp] theorem State.count_mem (f : Counters → Counters) : (s.count f).port.mem = s.port.mem := rfl
@[simp] theorem State.flag_mem (f : FaultFlags → FaultFlags) : (s.flag f).port.mem = s.port.mem := rfl
@[simp] theorem State.attend_mem (f : Attention → Attention) : (s.attend f).port.mem = s.port.mem := rfl
@[simp] theorem State.count_counters (f : Counters → Counters) : (s.count f).port.counters = f s.port.counters := rfl
@[simp] theorem State.flag_flags (f : FaultFlags → FaultFlags) : (s.flag f).port.flags = f s.port.flags := rfl
@[simp] theorem State.attend_attention (f : Attention → Attention) :
    (s.attend f).port.attention = f s.port.attention := rfl

/-! ### Taking a command -/

@[simp] theorem State.enter_now16 (t : Sixteenth) : (s.enter t).now16 = t := rfl
@[simp] theorem State.enter_work (t : Sixteenth) : (s.enter t).work = {} := rfl
@[simp] theorem State.enter_radio (t : Sixteenth) : (s.enter t).radio = s.radio := rfl
@[simp] theorem State.enter_sched (t : Sixteenth) : (s.enter t).sched = s.sched := rfl
@[simp] theorem State.enter_nbr (t : Sixteenth) : (s.enter t).nbr = s.nbr := rfl
@[simp] theorem State.enter_route (t : Sixteenth) : (s.enter t).route = s.route := rfl
@[simp] theorem State.enter_store (t : Sixteenth) : (s.enter t).store = s.store := rfl
@[simp] theorem State.enter_planner (t : Sixteenth) : (s.enter t).planner = s.planner := rfl
@[simp] theorem State.enter_recv (t : Sixteenth) : (s.enter t).recv = s.recv := rfl
@[simp] theorem State.enter_port (t : Sixteenth) : (s.enter t).port = s.port := rfl
@[simp] theorem State.enter_req (t : Sixteenth) : (s.enter t).req = s.req := rfl
@[simp] theorem State.enter_draws (t : Sixteenth) : (s.enter t).draws = s.draws := rfl
@[simp] theorem State.enter_pending (t : Sixteenth) : (s.enter t).pending = s.pending := rfl

/-! ### The operation outstanding and the one that waits (R152) -/

@[simp] theorem Operation.cutAt_kind (o : Operation) (t : Tick) : (o.cutAt t).kind = o.kind := rfl
@[simp] theorem Operation.cutAt_purpose (o : Operation) (t : Tick) : (o.cutAt t).purpose = o.purpose := rfl
@[simp] theorem Operation.cutAt_start (o : Operation) (t : Tick) : (o.cutAt t).start = o.start := rfl
@[simp] theorem Operation.cutAt_started (o : Operation) (t : Tick) : (o.cutAt t).started = o.started := rfl
@[simp] theorem Operation.cutAt_orphan (o : Operation) (t : Tick) : (o.cutAt t).orphan = o.orphan := rfl
@[simp] theorem Operation.cutAt_cut (o : Operation) (t : Tick) : (o.cutAt t).cut = true := rfl
@[simp] theorem Operation.cutAt_due (o : Operation) (t : Tick) : (o.cutAt t).due = (o.cutAt t).stop := rfl

/-- An operation that is not cut serves its own exchange. -/
theorem Radio.serving_of_uncut {r : Radio} {o : Operation} (h : r.op = some o) (hc : o.cut = false) :
    r.serving = some o := by simp [Radio.serving, h, hc]

/-- Behind a cut LISTEN the operation that waits serves. -/
theorem Radio.serving_of_cut {r : Radio} {o : Operation} (h : r.op = some o) (hc : o.cut = true) (hk : o.kind = .listen) :
    r.serving = r.waiting := by simp [Radio.serving, h, hc, hk]

/-- With nothing waiting a report leads to nothing. -/
theorem State.issueWaiting_none (h : s.radio.waiting = none) : s.issueWaiting = s := by simp [State.issueWaiting, h]

/-- What waits for the report of a cut LISTEN is forgone if it comes too late, and is the operation outstanding
otherwise. -/
theorem State.issueWaiting_some {w : Operation} (h : s.radio.waiting = some w) :
    s.issueWaiting =
      let s' := s.radioWith fun r => { r with waiting := none }
      if s'.pastIssue w then s'.forgo w else s'.issue w := by simp [State.issueWaiting, h]

/-! ### The radio for a claim whose window begins (R156, R157, R159) -/

/-- Without a LISTEN that serves, no purpose has an open one. -/
theorem State.openListen_of_idle (h : s.radio.op = none) (p : Purpose) : s.openListen p = false := by
  simp [State.openListen, Radio.serving, h]

/-- Where no refresh listen below the claim is open, nothing ends for it. -/
theorem State.yieldTo_of_closed (c : Claim)
    (h : ∀ v ∈ s.radio.timeline, v.kind = .refreshListen → c.kind.rank < v.kind.rank →
      s.openListen (.refresh v.owner) = false) : s.yieldTo c = s := by
  have : (s.radio.timeline.filter fun v =>
      v.kind = .refreshListen && c.kind.rank < v.kind.rank && s.openListen (.refresh v.owner)) = [] := by
    rw [List.filter_eq_nil_iff]
    intro v hv
    simp only [Bool.and_eq_true, decide_eq_true_eq, not_and, and_imp]
    intro hk hr
    simp [h v hv hk hr]
  simp only [State.yieldTo, this, List.foldl_nil]

/-- With no operation outstanding nothing ends for a claim. -/
theorem State.yieldTo_of_idle (c : Claim) (h : s.radio.op = none) : s.yieldTo c = s :=
  State.yieldTo_of_closed s c fun _ _ _ _ => State.openListen_of_idle s h _

/-- The radio that a claim is given is free once the lower listen has ended; an open segment is cut for it. -/
theorem State.radioFor_eq_some {c : Claim} {s' : State} :
    s.radioFor c = some s' ↔ (s.yieldTo c).radioBusy = false ∧ s' = (s.yieldTo c).cutSegment := by
  cases h : (s.yieldTo c).radioBusy <;> simp [State.radioFor, h, eq_comm]

/-- A claim finds no radio exactly while it is busy though the lower listen has ended. -/
theorem State.radioFor_eq_none {c : Claim} : s.radioFor c = none ↔ (s.yieldTo c).radioBusy = true := by
  cases h : (s.yieldTo c).radioBusy <;> simp [State.radioFor, h]

/-! ## Claims withdrawn while a stop is pending (R164), frames settled by serial (R70) -/

theorem State.withdrawFree_of_running (h : s.radio.stopPending = false) : s.withdrawFree = s := by
  simp [State.withdrawFree, h]

theorem State.withdrawFree_of_stop (h : s.radio.stopPending = true) :
    s.withdrawFree = s.dropClaims fun c => !c.hold s := by
  simp [State.withdrawFree, h]

/-- While a stop is pending no census or discovery opens a segment. -/
theorem State.longListen_of_stop (h : s.radio.stopPending = true) : s.longListen = none := by
  simp [State.longListen, h]

@[simp] theorem State.resettleAll_nil (scan : State → State) (a : Addr) : s.resettleAll scan a [] = s := rfl

@[simp] theorem State.resettleAll_cons (scan : State → State) (a : Addr) (n : Nat) (l : List Nat) :
    s.resettleAll scan a (n :: l)
      = State.resettleAll ((s.store.waiting n).elim s (s.resettle scan a)) scan a l := rfl

@[simp] theorem Store.toQueue_nextSerial (st : Store) (f : FrameRec) : (st.toQueue f).nextSerial = st.nextSerial := rfl
@[simp] theorem Store.toQueue_staging (st : Store) (f : FrameRec) :
    (st.toQueue f).staging = withoutSerial f.serial st.staging := rfl
@[simp] theorem Store.toParked_nextSerial (st : Store) (f : FrameRec) (d : Tick) :
    (st.toParked f d).nextSerial = st.nextSerial := rfl
@[simp] theorem Store.toParked_staging (st : Store) (f : FrameRec) (d : Tick) :
    (st.toParked f d).staging = withoutSerial f.serial st.staging := rfl

end Sys2Proof.Machine
end

