-- ==== Sys2Proof/Laws/Closed.lean ====
section
/-! SUPPORT. What holds through every kind of follow-up work. `QuietClosed P` lists the primitive changes that review,
passes, claim placement and recomputation are made of, and `ScanClosed P` adds those of a backlog scan; a property closed
under them holds after `finish` if it held before. -/

namespace Sys2Proof.Machine

/-- A LISTEN is outstanding. -/
def State.listenOn (s : State) : Prop := ∃ o, s.radio.op = some o ∧ o.kind = .listen

/-- Follow-up work changes no operation outstanding but a LISTEN, which it may cut short; it issues none, and only what
waits for a LISTEN's report may be dropped. -/
def KeepsOp (s : State) (op w : Option Operation) : Prop := op = s.radio.op ∧ w = s.radio.waiting ∨ s.listenOn

/-- Follow-up work leaves a burst on air alone and otherwise sends the sender to IDLE or nowhere. -/
def KeepsTx (s : State) (st : PlanState) (tx : TxState) : Prop :=
  (s.planner.state = .burst → st = .burst ∧ tx = s.planner.tx) ∧ (tx = .idle ∨ tx = s.planner.tx)

/-- Some claim of a kind may join the timeline (R155). -/
def State.hasRoom (s : State) (k : ClaimKind) : Prop :=
  match k with
  | .ownBeacon => s.claimCount (· = .ownBeacon) = 0
  | .ownListen => s.claimCount (· = .ownListen) = 0
  | .alarmTransmission => s.claimCount ClaimKind.isTransmission = 0
  | .otherTransmission => s.claimCount ClaimKind.isTransmission = 0
  | .refreshListen => s.claimCount (· = .refreshListen) < 4
  | .census => s.claimCount ClaimKind.isLong = 0
  | .discovery => s.claimCount ClaimKind.isLong = 0

/-- Follow-up work keeps the places and lets records go; it admits none. -/
def KeepsPlaces (old new : List (Option Neighbor)) : Prop :=
  new.length = old.length ∧ ((new.filterMap id).map (·.address)).Sublist ((old.filterMap id).map (·.address))

/-- A cell of the store holds an admission serial. -/
def State.inStore (s : State) (n : Nat) : Prop :=
  ∃ g ∈ s.store.queue ++ s.store.parked ++ s.store.staging ++ s.store.burst, g.serial = n

/-- A frame of an admission serial has a cell, or one is free for it (R101, R103). -/
def State.admits (s : State) (n : Nat) : Prop := s.inStore n ∨ (n < s.store.nextSerial ∧ 0 < s.store.free)

/-- `P` survives every primitive change that follow-up work other than a scan makes. -/
structure QuietClosed (P : State → Prop) : Prop where
  work : ∀ s w, w.scan = s.work.scan → P s → P { s with work := w }
  radio : ∀ s op w, KeepsOp s op w → P s → P { s with radio := { s.radio with op := op, waiting := w } }
  claims : ∀ s tl, (tl.map (·.kind)).Sublist (s.radio.timeline.map (·.kind)) → P s →
    P { s with radio := { s.radio with timeline := tl } }
  granted : ∀ s c, s.hasRoom c.kind → P s →
    P { s with radio := { s.radio with timeline := insertBy Claim.before c s.radio.timeline } }
  places : ∀ s ps, KeepsPlaces s.nbr.places ps → P s → P { s with nbr := { s.nbr with places := ps } }
  parents : ∀ s ps u, P s → P { s with route := { s.route with parents := ps, ownU := u } }
  queued : ∀ s f, s.admits f.serial → P s → P (s.storeWith fun st => st.toQueue f)
  parked : ∀ s f d, s.admits f.serial → P s → P (s.storeWith fun st => st.toParked f d)
  planner : ∀ s st pl mk tx, KeepsTx s st tx → P s →
    P { s with planner := { s.planner with state := st, plan := pl, marks := mk, tx := tx } }
  recv : ∀ s r, s.listenOn → P s → P { s with recv := r }
  counters : ∀ s c, P s → P { s with port := { s.port with counters := c } }
  fill : ∀ s b r alarm, b ∈ s.port.lent → P s → P (s.fillBox b r alarm)
  overflow : ∀ s o, P s → P { s with req := { s.req with overflow := o } }
  queueNotice : ∀ s n, P s → P (s.queueNotice n)

/-- `P` survives every primitive change that a backlog scan makes as well. -/
structure ScanClosed (P : State → Prop) : Prop extends QuietClosed P where
  scanFlag : ∀ s b, P s → P { s with work := { s.work with scan := b } }
  flow : ∀ s f, P s → P { s with store := { s.store with flow := f } }
  serial : ∀ s, P s → P s.takeSerial
  staged : ∀ s (f : FrameRec), s.store.staging.length < 8 → 0 < s.store.free → P s →
    P (s.takeSerial.storeWith fun st => { st with staging := st.staging ++ [{ f with serial := s.store.nextSerial }] })
  removed : ∀ s n, P s → P (s.storeWith fun st => st.remove n)
  rewritten : ∀ s f, (∀ g : FrameRec, (f g).serial = g.serial ∧ (f g).cls = g.cls) → P s →
    P (s.storeWith fun st => st.mapWaiting f)
  sequence : ∀ s n, P s → P { s with store := { s.store with sequence := n } }
  record : ∀ s o q, P s → P (s.record o q)
  trails : ∀ s ts, ts.Sublist s.route.trails → P s → P { s with route := { s.route with trails := ts } }
  survey : ∀ s m b e p, P s →
    P { s with sched := { s.sched with pendingMask := m, batches := b, exclusions := e, proposals := p } }
  settings : ∀ s ps, s.setFailure ps = none → P s → P { s with req := { s.req with settings := s.setResult ps } }
  level : ∀ s, P s → P s.attentionLevel
  finishBox : ∀ s b c d, P s → P (s.finishBox b c d)
  takeBox : ∀ s b, s.port.backlog.contains b = true → P s → P (s.takeBox b)
  pin : ∀ s a, s.nbr.pins.contains a = false → s.nbr.pins.length < 8 → P s → P (s.pinned a)
  unpin : ∀ s a, P s → P (s.unpinned a)
  bar : ∀ s a, s.nbr.bars.contains a = false → s.nbr.bars.length < 8 → P s →
    P (s.nbrWith fun u => { u with bars := u.bars ++ [a], pins := u.pins.filter (· ≠ a) })
  unbar : ∀ s a, P s → P (s.nbrWith fun u => { u with bars := u.bars.filter (· ≠ a) })

/-- An open listen has a LISTEN outstanding: its own, or the cut one it waits for. -/
theorem State.listenOn_of_open {s : State} {p : Purpose} (h : s.openListen p = true) : s.listenOn := by
  unfold State.openListen Radio.serving at h
  cases ho : s.radio.op with
  | none => simp [ho] at h
  | some o =>
    refine ⟨o, ho, ?_⟩
    simp only [ho] at h
    split at h
    · split at h
      · assumption
      · cases h
    · simp only [Option.any_some, Operation.isOpen, Bool.and_eq_true, decide_eq_true_eq] at h
      exact h.1.1.1

/-- Cutting a listen leaves an outstanding LISTEN outstanding. -/
theorem State.listenOn_cutListen {s : State} (h : s.listenOn) : s.cutListen.listenOn := by
  obtain ⟨o, ho, hk⟩ := h
  unfold State.listenOn State.cutListen
  simp only [State.radioWith_radio, ho]
  split
  · exact ⟨o, rfl, hk⟩
  · exact ⟨_, rfl, hk⟩

/-! ## The questions of a recomputation leave the planner's state alone -/

theorem State.testHold_planner (s : State) (a : Addr) : (s.testHold a).planner = s.planner := by
  unfold State.testHold
  split
  · split <;> rfl
  · rfl

theorem State.timingTest_planner (s : State) (a : Addr) (b : Option Tick) :
    (s.timingTest a b).2.planner = s.planner := by
  unfold State.timingTest
  simp only []
  repeat' split
  all_goals rfl

theorem State.ask_planner (s : State) (a : Addr) (c : FrameClass) (aim : Option Aim) :
    (s.ask a c aim).2.planner = s.planner := by
  unfold State.ask
  split
  · rfl
  · have h := ((s.testHold a).timingTest_planner a ((aim.filter (·.1 = a)).map (·.2))).trans (s.testHold_planner a)
    simp only []
    split <;> (rename_i heq; rw [heq] at h; exact h)

theorem State.firstSendable_planner (c : FrameClass) (aim : Option Aim) (l : List Addr) (s : State) :
    (State.firstSendable c aim l s).2.planner = s.planner := by
  induction l generalizing s with
  | nil => rfl
  | cons a as ih =>
    have h := s.ask_planner a c aim
    unfold State.firstSendable
    split <;> (rename_i heq; rw [heq] at h)
    · exact h
    · exact (ih _).trans h

theorem State.target_planner (s : State) (f : FrameRec) (aim : Option Aim) :
    (s.target f aim).2.planner = s.planner := by
  unfold State.target
  split
  · unfold State.uplinkTarget
    simp only []
    have h := State.firstSendable_planner f.cls aim
      ((s.route.parents.map (·.address)).filter fun a => some a ≠ f.lastFail) s
    split <;> (rename_i heq; rw [heq] at h)
    · exact h
    · exact (State.firstSendable_planner _ _ _ _).trans h
  · rename_i a _
    have h := s.ask_planner a f.cls aim
    split <;> (rename_i heq; rw [heq] at h; exact h)
  · rfl

theorem State.eligible_planner (aim : Option Aim) (l : List FrameRec) (s : State) :
    (State.eligible aim l s).2.planner = s.planner := by
  induction l generalizing s with
  | nil => rfl
  | cons f fs ih =>
    unfold State.eligible
    split
    · have h := s.target_planner f aim
      split <;> (rename_i heq; rw [heq] at h; exact (ih _).trans h)
    · exact ih _

theorem State.clearMark_state (s : State) (a : Addr) : (s.clearMark a).planner.state = s.planner.state := by
  unfold State.clearMark
  split
  · split <;> rfl
  · rfl

theorem State.candidateList_state (el l : List (FrameRec × Addr)) (seen : List Addr) (s : State) :
    (State.candidateList el l seen s).2.planner.state = s.planner.state := by
  induction l generalizing s seen with
  | nil => rfl
  | cons x rest ih =>
    obtain ⟨f, a⟩ := x
    unfold State.candidateList
    split
    · exact ih _ _
    · exact (ih _ _).trans (s.clearMark_state a)

/-! ## The questions of a recomputation leave the store alone -/

theorem State.testHold_store (s : State) (a : Addr) : (s.testHold a).store = s.store := by
  unfold State.testHold
  split
  · split <;> rfl
  · rfl

theorem State.timingTest_store (s : State) (a : Addr) (b : Option Tick) : (s.timingTest a b).2.store = s.store := by
  unfold State.timingTest
  simp only []
  repeat' split
  all_goals rfl

theorem State.ask_store (s : State) (a : Addr) (c : FrameClass) (aim : Option Aim) :
    (s.ask a c aim).2.store = s.store := by
  unfold State.ask
  split
  · rfl
  · have h := ((s.testHold a).timingTest_store a ((aim.filter (·.1 = a)).map (·.2))).trans (s.testHold_store a)
    simp only []
    split <;> (rename_i heq; rw [heq] at h; exact h)

theorem State.firstSendable_store (c : FrameClass) (aim : Option Aim) (l : List Addr) (s : State) :
    (State.firstSendable c aim l s).2.store = s.store := by
  induction l generalizing s with
  | nil => rfl
  | cons a as ih =>
    have h := s.ask_store a c aim
    unfold State.firstSendable
    split <;> (rename_i heq; rw [heq] at h)
    · exact h
    · exact (ih _).trans h

theorem State.target_store (s : State) (f : FrameRec) (aim : Option Aim) : (s.target f aim).2.store = s.store := by
  unfold State.target
  split
  · unfold State.uplinkTarget
    simp only []
    have h := State.firstSendable_store f.cls aim
      ((s.route.parents.map (·.address)).filter fun a => some a ≠ f.lastFail) s
    split <;> (rename_i heq; rw [heq] at h)
    · exact h
    · exact (State.firstSendable_store _ _ _ _).trans h
  · rename_i a _
    have h := s.ask_store a f.cls aim
    split <;> (rename_i heq; rw [heq] at h; exact h)
  · rfl

/-! ## Cells -/

theorem State.inStore_congr {s t : State} (h : t.store = s.store) {n : Nat} (hn : s.inStore n) : t.inStore n := by
  unfold State.inStore at *
  rwa [h]

theorem State.admits_congr {s t : State} (h : t.store = s.store) {n : Nat} (hn : s.admits n) : t.admits n := by
  unfold State.admits State.inStore at *
  rwa [h]

theorem mem_insertBy {α : Type} (before : α → α → Bool) (x y : α) (l : List α) :
    y ∈ insertBy before x l ↔ y = x ∨ y ∈ l := by
  induction l with
  | nil => simp [insertBy]
  | cons z zs ih =>
    unfold insertBy
    split
    · simp
    · simp only [List.mem_cons, ih]; tauto

/-- A frame that moves to the transmit queue or the parked list leaves every other cell where it was. -/
theorem State.inStore_moved {s t : State} {f : FrameRec} {n : Nat}
    (h : t.store = s.store.toQueue f ∨ ∃ d, t.store = s.store.toParked f d) (hn : s.inStore n) : t.inStore n := by
  obtain ⟨g, hg, rfl⟩ := hn
  unfold State.inStore
  by_cases he : g.serial = f.serial
  · rcases h with h | ⟨d, h⟩ <;> rw [h]
    · exact ⟨{ f with deadline := none }, by simp [Store.toQueue, mem_insertBy], he.symm⟩
    · exact ⟨{ f with deadline := some d }, by simp [Store.toParked, mem_insertBy], he.symm⟩
  · refine ⟨g, ?_, rfl⟩
    simp only [List.mem_append] at hg
    rcases h with h | ⟨d, h⟩ <;> rw [h] <;>
      simp only [Store.toQueue, Store.toParked, Store.remove, withoutSerial, List.mem_append, mem_insertBy,
        List.mem_filter, decide_eq_true_eq] <;> tauto

/-! ## Claims -/

theorem State.claimCount_le {s t : State} (p : ClaimKind → Bool)
    (h : (t.radio.timeline.map (·.kind)).Sublist (s.radio.timeline.map (·.kind))) : t.claimCount p ≤ s.claimCount p := by
  have key : ∀ x : State, x.claimCount p = ((x.radio.timeline.map (·.kind)).filter p).length := fun x => by
    rw [List.filter_map, List.length_map]; rfl
  rw [key, key]
  exact (h.filter p).length_le

theorem State.hasRoom_of_sublist {s t : State} {k : ClaimKind}
    (h : (t.radio.timeline.map (·.kind)).Sublist (s.radio.timeline.map (·.kind))) (hr : s.hasRoom k) : t.hasRoom k := by
  have hle := fun p => State.claimCount_le p h
  unfold State.hasRoom at *
  split at hr <;> first | exact Nat.le_zero.mp (hr ▸ hle _) | exact lt_of_le_of_lt (hle _) hr

theorem State.cutListen_timeline (s : State) : s.cutListen.radio.timeline = s.radio.timeline := by
  unfold State.cutListen
  simp only [State.radioWith_radio]
  split
  · split <;> rfl
  · rfl

theorem State.loseClaim_timeline (s : State) (c : Claim) :
    (s.loseClaim c).radio.timeline = s.radio.timeline.filter fun x => !decide (x = c) := by
  unfold State.loseClaim
  simp only []
  split
  · unfold State.skipListen
    simp only []
    split
    · exact State.cutListen_timeline _
    · rfl
  · rfl
  · rfl
  · split
    · exact State.cutListen_timeline _
    · rfl
  · rfl

/-- Claims lost take away from the timeline and add nothing. -/
theorem State.loseClaims_kinds (l : List Claim) (s : State) :
    ((l.foldl State.loseClaim s).radio.timeline.map (·.kind)).Sublist (s.radio.timeline.map (·.kind)) := by
  induction l generalizing s with
  | nil => exact List.Sublist.refl _
  | cons c l ih =>
    refine (ih _).trans ?_
    rw [State.loseClaim_timeline]
    exact List.Sublist.map _ List.filter_sublist

/-- With the claims of some kinds gone, none of them stands. -/
theorem State.claimCount_dropClaims (s : State) (p : ClaimKind → Bool) :
    (s.dropClaims fun c => p c.kind).claimCount p = 0 := by
  simp [State.claimCount, State.dropClaims, State.timelineWith, State.radioWith, List.filter_filter]

theorem State.transmissionRoom (s : State) (p : Plan) :
    (s.dropClaims fun c => c.kind.isTransmission).hasRoom p.claim.kind := by
  have h := State.claimCount_dropClaims s ClaimKind.isTransmission
  have hk : p.claim.kind = .alarmTransmission ∨ p.claim.kind = .otherTransmission := by
    show p.claimKind = _ ∨ p.claimKind = _
    unfold Plan.claimKind
    split <;> simp
  rcases hk with hk | hk <;> rw [hk] <;> exact h

/-- A refused request changes nothing. -/
theorem State.request_refused {s : State} {c : Claim} (h : (s.request c).1 = false) : (s.request c).2 = s := by
  unfold State.request at *
  simp only [] at *
  split at h
  · cases h
  · rename_i h1
    rw [if_neg h1]
    split at h
    · rename_i h2; rw [if_pos h2]
    · cases h

/-! ## Records and frames -/

@[simp] theorem Neighbor.applyPending_address (r : Neighbor) (here : Tick) : (r.applyPending here).address = r.address := by
  unfold Neighbor.applyPending
  repeat' split
  all_goals rfl

@[simp] theorem Neighbor.applyPendingNow_address (r : Neighbor) (t : Sixteenth) :
    (r.applyPendingNow t).address = r.address := by
  unfold Neighbor.applyPendingNow
  split
  · exact r.applyPending_address _
  · rfl

/-- Records rewritten in their places keep their addresses. -/
theorem addresses_map (g : Neighbor → Neighbor) (hg : ∀ r, (g r).address = r.address) (l : List (Option Neighbor)) :
    ((l.map fun p => p.map g).filterMap id).map (·.address) = (l.filterMap id).map (·.address) := by
  induction l with
  | nil => rfl
  | cons p ps ih => cases p <;> simp_all

/-- Records taken out of their places leave the places and the other records. -/
theorem keepsPlaces_filter (p : Neighbor → Bool) (l : List (Option Neighbor)) :
    KeepsPlaces l (l.map fun q => q.filter p) := by
  refine ⟨List.length_map _, List.Sublist.map _ ?_⟩
  induction l with
  | nil => exact List.Sublist.refl _
  | cons q qs ih =>
    cases q with
    | none => simpa using ih
    | some r =>
      simp only [List.map_cons, Option.filter_some, List.filterMap_cons, id_eq]
      split
      · rename_i h; split at h
        · cases h
        · exact ih.cons _
      · rename_i x h; split at h
        · cases h; exact ih.cons_cons _
        · cases h

theorem mem_sortBy {α : Type} (before : α → α → Bool) (l : List α) (x : α) : x ∈ sortBy before l ↔ x ∈ l := by
  induction l with
  | nil => simp [sortBy]
  | cons y ys ih => simp [sortBy, mem_insertBy, ih]

theorem State.mem_of_waiting {s : State} {n : Nat} {f : FrameRec} (h : s.store.waiting n = some f) :
    f ∈ s.store.queue ++ s.store.parked ++ s.store.staging ++ s.store.burst := by
  have := List.mem_of_find?_eq_some h
  simp only [List.mem_append] at *
  tauto

theorem State.inStore_place {s : State} {n : Nat} (f : FrameRec) (h : s.inStore n) : (s.place f).inStore n := by
  unfold State.place
  split
  · have h' := State.inStore_congr (s.target_store f none) h
    split
    · rename_i heq; rw [heq] at h'; exact State.inStore_moved (s := _) (.inl rfl) h'
    · rename_i heq; rw [heq] at h'
      split
      · exact State.inStore_moved (f := f) (.inr ⟨_, rfl⟩) h'
      · exact State.inStore_moved (f := f) (.inr ⟨_, rfl⟩) h'
  · exact State.inStore_moved (.inl rfl) h

theorem State.inStore_passFrame {s : State} {n : Nat} (f : FrameRec) (h : s.inStore n) : (s.passFrame f).inStore n := by
  unfold State.passFrame
  have h' := State.inStore_congr (s.target_store f none) h
  split <;> (rename_i heq _; rw [heq] at h')
  · exact h'
  · exact State.inStore_moved (.inl rfl) h'
  · exact State.inStore_moved (f := f) (.inr ⟨_, rfl⟩) h'
  · exact h'

/-- A SEND that is taken has a free cell (R103, R181). -/
theorem State.free_of_take {s : State} {q : SendBody} {cls : FrameClass} {b : Binding}
    (h : s.judgeSend q = .take cls b) : 0 < s.store.free := by
  unfold State.judgeSend at h
  repeat' split at h
  all_goals cases h
  have hg : s.store.grants cls = true := by assumption
  unfold Store.grants at hg
  split at hg <;> simp at hg <;> omega

/-- A fold of steps that keep a property over the elements of the list keeps it. -/
theorem foldl_closed_mem {α : Type} {P : State → Prop} {f : State → α → State} (l : List α)
    (h : ∀ s a, a ∈ l → P s → P (f s a)) {s : State} (hs : P s) : P (l.foldl f s) := by
  induction l generalizing s with
  | nil => exact hs
  | cons a l ih => exact ih (fun s b hb => h s b (List.mem_cons_of_mem _ hb)) (h s a List.mem_cons_self hs)

/-- A fold of steps that keep a property keeps it. -/
theorem foldl_closed {α : Type} {P : State → Prop} {f : State → α → State} (h : ∀ s a, P s → P (f s a)) (l : List α)
    {s : State} (hs : P s) : P (l.foldl f s) := by
  induction l generalizing s with
  | nil => exact hs
  | cons a l ih => exact ih (h s a hs)

namespace QuietClosed

variable {P : State → Prop} (C : QuietClosed P) {s : State}
include C

theorem dropClaims (p : Claim → Bool) (h : P s) : P (s.dropClaims p) :=
  C.claims s _ (List.Sublist.map _ List.filter_sublist) h
theorem overtake (a : Addr) (h : P s) : P (s.overtake a) := by
  refine C.claims s _ ?_ h
  rw [List.map_map, List.map_congr_left (g := (·.kind)) (fun c _ => by simp only [Function.comp]; split <;> rfl)]
theorem updNbr (a : Addr) (f : Neighbor → Neighbor) (hf : ∀ r, (f r).address = r.address) (h : P s) :
    P (s.updNbr a f) := by
  refine C.places s _ ⟨List.length_map _, ?_⟩ h
  have key := addresses_map (fun r => if r.address = a then f r else r) (fun r => by split <;> simp [hf]) s.nbr.places
  rw [key]
theorem count (f : Counters → Counters) (h : P s) : P (s.count f) := C.counters s _ h
theorem callReview (h : P s) : P s.callReview := C.work s _ rfl h
theorem callPass (h : P s) : P s.callPass := C.work s _ rfl h
theorem callRecompute (h : P s) : P s.callRecompute := C.work s _ rfl h
theorem callListen (t : Tick) (h : P s) : P (s.callListen t) := C.work s _ rfl h
theorem reportTarget (h : P s) : P s.reportTarget := C.callRecompute (C.callPass h)
theorem reportTracker (h : P s) : P s.reportTracker := C.callRecompute (C.callPass (C.callReview h))

theorem cutListen (hl : s.listenOn) (h : P s) : P s.cutListen := by
  have h' : ∀ op w, P { s with radio := { s.radio with op := op, waiting := w } } := fun op w =>
    C.radio s op w (.inr hl) h
  unfold State.cutListen State.radioWith
  simp only []
  split
  · split
    · exact h' _ _
    · exact h' _ _
  · exact h

theorem grant (c : Claim) (hr : s.hasRoom c.kind) (h : P s) : P (s.grant c) := by
  refine C.radio { s with radio := { s.radio with timeline := insertBy Claim.before c s.radio.timeline } } _ _ ?_
    (C.granted s c hr h)
  by_cases hl : s.listenOn
  · exact .inr hl
  · refine .inl ⟨?_, rfl⟩
    cases ho : s.radio.op with
    | none => rfl
    | some o =>
      have hk : o.kind ≠ .listen := fun hk => hl ⟨o, ho, hk⟩
      simp [hk]


theorem clearPlan (hb : s.planner.state ≠ .burst) (h : P s) : P s.clearPlan :=
  C.dropClaims _ (C.planner s _ _ _ _ ⟨fun hb' => absurd hb' hb, .inl rfl⟩ h)
theorem lapseNbr (a : Addr) (h : P s) : P (s.lapseNbr a) :=
  C.reportTracker (C.overtake a (C.updNbr a _ (fun _ => rfl) h))
theorem enqueue (f : FrameRec) (ha : s.admits f.serial) (h : P s) : P (s.enqueue f) := C.callRecompute (C.queued s f ha h)
theorem parkUntil (f : FrameRec) (d : Tick) (ha : s.admits f.serial) (h : P s) : P (s.parkUntil f d) :=
  C.parked s f d ha h

theorem testHold (a : Addr) (h : P s) : P (s.testHold a) := by
  unfold State.testHold
  split
  · split
    · exact C.reportTarget (C.updNbr a _ (fun _ => rfl) h)
    · exact h
  · exact h

theorem timingTest (a : Addr) (b : Option Tick) (h : P s) : P (s.timingTest a b).2 := by
  unfold State.timingTest
  have h' : P (s.updNbr a fun r => r.applyPendingNow s.now16) := C.updNbr a _ (fun r => r.applyPendingNow_address _) h
  simp only []
  split
  · exact h'
  · split
    · exact h'
    · split
      · exact h'
      · split
        · exact h'
        · split
          · exact C.lapseNbr a h'
          · exact h'

theorem ask (a : Addr) (c : FrameClass) (aim : Option Aim) (h : P s) : P (s.ask a c aim).2 := by
  unfold State.ask
  split
  · exact h
  · have h' := C.timingTest a ((aim.filter (·.1 = a)).map (·.2)) (C.testHold a h)
    simp only []
    split
    · rename_i heq; rw [heq] at h'; exact h'
    · rename_i heq; rw [heq] at h'; exact h'

theorem firstSendable (c : FrameClass) (aim : Option Aim) (l : List Addr) (h : P s) :
    P (State.firstSendable c aim l s).2 := by
  induction l generalizing s with
  | nil => exact h
  | cons a as ih =>
    have h' := C.ask a c aim h
    unfold State.firstSendable
    split
    · rename_i heq; rw [heq] at h'; exact h'
    · rename_i heq; rw [heq] at h'; exact ih h'

theorem uplinkTarget (c : FrameClass) (l : Option Addr) (aim : Option Aim) (h : P s) :
    P (s.uplinkTarget c l aim).2 := by
  unfold State.uplinkTarget
  simp only []
  have h' := C.firstSendable c aim ((s.route.parents.map (·.address)).filter fun a => some a ≠ l) h
  split
  · rename_i heq; rw [heq] at h'; exact h'
  · rename_i heq; rw [heq] at h'; exact C.firstSendable c aim _ h'

theorem target (f : FrameRec) (aim : Option Aim) (h : P s) : P (s.target f aim).2 := by
  unfold State.target
  split
  · exact C.uplinkTarget _ _ _ h
  · rename_i a _
    have h' := C.ask a f.cls aim h
    split
    · rename_i heq; rw [heq] at h'; exact h'
    · rename_i heq; rw [heq] at h'; exact h'
  · exact h

theorem place (f : FrameRec) (ha : s.admits f.serial) (h : P s) : P (s.place f) := by
  unfold State.place
  split
  · have h' := C.target f none h
    have ha' := State.admits_congr (s.target_store f none) ha
    split
    · rename_i heq; rw [heq] at h' ha'; exact C.enqueue f ha' h'
    · rename_i heq; rw [heq] at h' ha'
      split
      · exact C.parkUntil f _ ha' h'
      · exact C.parkUntil f _ ha' h'
  · exact C.enqueue f ha h

theorem passFrame (f : FrameRec) (ha : s.admits f.serial) (h : P s) : P (s.passFrame f) := by
  unfold State.passFrame
  have h' := C.target f none h
  have ha' := State.admits_congr (s.target_store f none) ha
  split <;> (rename_i heq _; rw [heq] at h' ha')
  · exact h'
  · exact C.enqueue f ha' h'
  · exact C.parkUntil f _ ha' h'
  · exact h'

theorem pass (h : P s) : P s.pass := by
  unfold State.pass
  simp only []
  have h0 : P { s with work := { s.work with pass := false } } := C.work s _ rfl h
  have h1 : ∀ f ∈ s.store.queue ++ s.store.parked,
      State.inStore { s with work := { s.work with pass := false } } f.serial :=
    fun f hf => ⟨f, by simp only [List.mem_append] at *; tauto, rfl⟩
  split
  · refine (foldl_closed_mem (P := fun x => P x ∧ ∀ f ∈ s.store.queue ++ s.store.parked, x.inStore f.serial) _
      (fun x f hf hx => ?_) ⟨h0, h1⟩).1
    have hf := (mem_sortBy _ _ _).mp hf
    exact ⟨C.passFrame f (.inl (hx.2 f hf)) hx.1, fun g hg => State.inStore_passFrame f (hx.2 g hg)⟩
  · exact h0

theorem returnBurst (h : P s) : P s.returnBurst :=
  (foldl_closed_mem (P := fun x => P x ∧ ∀ f ∈ s.store.burst, x.inStore f.serial) s.store.burst
    (fun _ f hf hx => ⟨C.place f (.inl (hx.2 f hf)) hx.1, fun g hg => State.inStore_place f (hx.2 g hg)⟩)
    ⟨h, fun f hf => ⟨f, by simp_all, rfl⟩⟩).1

theorem notify (e : NoticeEvent) (h : P s) : P (s.notify e) := by
  unfold State.notify
  split
  · simp only []
    split
    · rename_i b _ hb
      exact C.fill _ _ _ _ (by simp [hb]) (C.overflow s false h)
    · exact C.queueNotice s _ h
  · exact h

theorem review (h : P s) : P s.review := by
  unfold State.review
  have h' : ∀ w ps u, w.scan = s.work.scan → P { s with route := { s.route with parents := ps, ownU := u }, work := w } :=
    fun w ps u hw => C.work { s with route := { s.route with parents := ps, ownU := u } } w hw (C.parents s ps u h)
  simp only []
  split
  · split
    · exact h' _ _ _ rfl
    · exact C.reportTarget (h' _ _ _ rfl)
  · apply C.notify
    split
    · exact h' _ _ _ rfl
    · exact C.reportTarget (h' _ _ _ rfl)

theorem reviewIfDue (h : P s) : P s.reviewIfDue := by
  unfold State.reviewIfDue
  split
  · exact C.review h
  · exact h

theorem skipListen (c : Claim) (h : P s) : P (s.skipListen c) := by
  unfold State.skipListen
  have h' : P (s.countMissed.callListen c.instant) := C.callListen _ (C.counters s _ h)
  simp only []
  split
  · rename_i ho
    have hl := State.listenOn_of_open ho
    exact C.recv _ _ (State.listenOn_cutListen hl) (C.cutListen hl h')
  · exact h'

theorem loseClaim (c : Claim) (h : P s) : P (s.loseClaim c) := by
  unfold State.loseClaim
  have h' : P (s.dropClaims (· = c)) := C.dropClaims _ h
  simp only []
  split
  · exact C.skipListen c h'
  · exact C.work _ _ rfl h'
  · exact C.work _ _ rfl h'
  · split
    · rename_i ho
      exact C.cutListen (State.listenOn_of_open ho) h'
    · exact h'
  · exact h'

theorem request (c : Claim) (hr : s.hasRoom c.kind) (h : P s) : P (s.request c).2 := by
  unfold State.request
  simp only []
  split
  · exact C.grant c hr h
  · split
    · exact h
    · exact C.grant c (State.hasRoom_of_sublist (State.loseClaims_kinds _ s) hr)
        (foldl_closed (fun _ c h => C.loseClaim c h) _ h)

theorem requestListen (n : Nat) (lo : Tick) (hr : s.hasRoom .ownListen) (h : P s) : P (State.requestListen n lo s) := by
  induction n generalizing s lo with
  | zero => exact h
  | succ n ih =>
    unfold State.requestListen
    split
    · exact h
    · rename_i t _
      have h' := C.request (s.listenClaim t) hr h
      split
      · rename_i heq; rw [heq] at h'; exact h'
      · rename_i x heq
        rw [heq] at h'
        have hx : x = s := by
          have := State.request_refused (c := s.listenClaim t) (s := s) (by rw [heq])
          rw [heq] at this; exact this
        exact ih _ (hx ▸ hr) (C.counters _ _ h')

theorem placeListen (t : Option Tick) (h : P s) : P (s.placeListen t) := by
  unfold State.placeListen
  have h' := C.work _ { (s.dropClaims fun c => c.kind = .ownListen).work with placeListen := none } rfl
    (C.dropClaims (fun c => c.kind = .ownListen) h)
  simp only []
  split
  · exact C.requestListen _ _ (State.claimCount_dropClaims s (· = .ownListen)) h'
  · exact h'

theorem replaceListen (h : P s) : P s.replaceListen := by
  unfold State.replaceListen
  split
  · exact h
  · split
    · exact h
    · exact C.placeListen _ h

theorem placeBeacon (h : P s) : P s.placeBeacon := by
  unfold State.placeBeacon
  have h' : P (s.dropClaims fun c => c.kind = .ownBeacon) := C.dropClaims _ h
  simp only []
  split
  · exact C.request _ (State.claimCount_dropClaims s (· = .ownBeacon)) h'
  · exact h'

theorem loseToHold (c : Claim) (h : P s) : P (s.loseToHold c) := by
  unfold State.loseToHold
  split
  · exact C.placeBeacon (C.loseClaim c h)
  · exact C.loseClaim c h

theorem loseBegun (p : Claim → Bool) (h : P s) : P (s.loseBegun p) := foldl_closed (fun _ c h => C.loseToHold c h) _ h

theorem yieldTo (c : Claim) (h : P s) : P (s.yieldTo c) := foldl_closed (fun _ v h => C.loseClaim v h) _ h

theorem dropPlan (h : P s) : P s.dropPlan := by
  unfold State.dropPlan
  split
  · rename_i hs
    exact C.callRecompute (C.returnBurst (C.clearPlan (by rcases hs with hs | hs <;> simp [hs]) h))
  · exact h

theorem losePlan (h : P s) : P s.losePlan := by
  unfold State.losePlan
  have h' : P { s with work := { s.work with planLost := false } } := C.work s _ rfl h
  simp only []
  split
  · split
    · rename_i hs
      exact C.callRecompute (C.planner _ _ _ _ _ ⟨fun h => ⟨h, rfl⟩, .inr rfl⟩
        (C.returnBurst (C.clearPlan (by rcases hs with hs | hs <;> simp [hs]) h')))
    · exact h'
  · exact h'

theorem eligible (aim : Option Aim) (l : List FrameRec) (h : P s) : P (State.eligible aim l s).2 := by
  induction l generalizing s with
  | nil => exact h
  | cons f fs ih =>
    unfold State.eligible
    split
    · have h' := C.target f aim h
      split
      · rename_i heq; rw [heq] at h'; exact ih h'
      · rename_i heq; rw [heq] at h'; exact ih h'
    · exact ih h

theorem clearMark (a : Addr) (h : P s) : P (s.clearMark a) := by
  unfold State.clearMark
  split
  · split
    · exact C.planner s _ _ _ _ ⟨fun h => ⟨h, rfl⟩, .inr rfl⟩ h
    · exact h
  · exact h

theorem candidateList (el l : List (FrameRec × Addr)) (seen : List Addr) (h : P s) :
    P (State.candidateList el l seen s).2 := by
  induction l generalizing s seen with
  | nil => exact h
  | cons x rest ih =>
    obtain ⟨f, a⟩ := x
    unfold State.candidateList
    split
    · exact ih seen h
    · exact ih (a :: seen) (C.clearMark a h)

theorem claimPlan (p : Plan) (h : P s) : P (s.claimPlan p) := by
  unfold State.claimPlan
  simp only []
  have h' := C.request (s := s.dropClaims fun c => c.kind.isTransmission) p.claim (s.transmissionRoom p)
    (C.dropClaims (fun c => c.kind.isTransmission) h)
  split
  · rename_i heq; rw [heq] at h'; exact h'
  · rename_i heq; rw [heq] at h'; exact C.losePlan h'

theorem openPlan (p : Plan) (hb : s.planner.state ≠ .burst) (h : P s) : P (s.openPlan p) :=
  C.claimPlan p (C.planner s _ _ _ _ ⟨fun hb' => absurd hb' hb, .inr rfl⟩ h)

theorem adopt (c : Candidate) (hb : s.planner.state ≠ .burst) (h : P s) : P (s.adopt c) := by
  unfold State.adopt
  split
  · split
    · split
      · exact C.planner s _ _ _ _ ⟨fun h => ⟨h, rfl⟩, .inr rfl⟩ h
      · exact C.openPlan _ hb h
    · exact C.openPlan _ hb h
  · exact C.openPlan _ hb h

theorem recompute (h : P s) : P s.recompute := by
  unfold State.recompute
  have h0 : P { s with work := { s.work with recompute := false } } := C.work s _ rfl h
  simp only []
  split
  · have h1 := C.candidateList
      (State.eligible none s.store.queue { s with work := { s.work with recompute := false } }).1
      (State.eligible none s.store.queue { s with work := { s.work with recompute := false } }).1 []
      (C.eligible none s.store.queue h0)
    have h2 := (State.candidateList_state
      (State.eligible none s.store.queue { s with work := { s.work with recompute := false } }).1
      (State.eligible none s.store.queue { s with work := { s.work with recompute := false } }).1 []
      (State.eligible none s.store.queue { s with work := { s.work with recompute := false } }).2).trans
      (congrArg Planner.state (State.eligible_planner none s.store.queue { s with work := { s.work with recompute := false } }))
    rename_i hg
    have hb : s.planner.state ≠ .burst := by
      intro hb
      simp [hb] at hg
    split
    · exact C.adopt _ (by rw [h2]; exact hb) h1
    · split
      · exact C.clearPlan (by rw [h2]; exact hb) h1
      · exact h1
  · exact h0

theorem quietRound (h : P s) : P s.quietRound := by
  unfold State.quietRound
  split
  · exact C.losePlan h
  · split
    · exact C.review h
    · split
      · exact C.pass h
      · split
        · exact C.placeListen _ h
        · split
          · exact C.recompute h
          · exact h

/-- A property closed under the primitive changes holds through the rounds of follow-up work. -/
theorem settleQuiet (n : Nat) (h : P s) : P (State.settleQuiet n s) := by
  induction n generalizing s with
  | zero => exact h
  | succ n ih =>
    unfold State.settleQuiet
    split
    · exact h
    · exact ih (C.quietRound h)

end QuietClosed

namespace ScanClosed

variable {P : State → Prop} (C : ScanClosed P) {s : State}
include C

theorem callScan (h : P s) : P s.callScan := C.scanFlag s _ h
theorem evalFlow (h : P s) : P s.evalFlow := C.flow s _ h
theorem freeChanged (h : P s) : P s.freeChanged := C.callScan (C.evalFlow h)
theorem takeSerial (h : P s) : P s.takeSerial := C.serial s h

theorem storeFrame (f : FrameRec) (hg : 0 < s.store.free) (h : P s) : P (s.storeFrame f) :=
  C.freeChanged (C.place _ (.inr ⟨Nat.lt_succ_self _, hg⟩) (C.takeSerial h))

theorem stage (f : FrameRec) (hl : s.store.staging.length < 8) (hg : 0 < s.store.free) (h : P s) : P (s.stage f) :=
  C.freeChanged (C.staged s f hl hg h)

theorem leave {scan : State → State} (hscan : ∀ s, P s → P (scan s)) (f : FrameRec) (l : Leave) (h : P s) :
    P (s.leave scan f l) := by
  unfold State.leave
  have h' : P (s.storeWith fun st => st.remove f.serial).freeChanged := C.freeChanged (C.removed s _ h)
  simp only []
  split
  · exact hscan _ (C.finishBox _ _ _ _ (C.count _ h'))
  · exact hscan _ (C.count _ h')

theorem reresolve {scan : State → State} (hscan : ∀ s, P s → P (scan s)) (f : FrameRec) (ha : s.admits f.serial)
    (h : P s) : P (s.reresolve scan f) := by
  unfold State.reresolve
  split
  · exact C.place _ ha h
  · exact C.place _ ha h
  · exact C.place _ ha h
  · exact C.leave hscan f _ h
  · exact C.leave hscan f _ h

theorem resettle {scan : State → State} (hscan : ∀ s, P s → P (scan s)) (a : Addr) (f : FrameRec)
    (ha : s.admits f.serial) (h : P s) : P (s.resettle scan a f) := by
  unfold State.resettle
  split
  · exact C.reresolve hscan f ha h
  · exact C.place f ha h

theorem resettleAll {scan : State → State} (hscan : ∀ s, P s → P (scan s)) (a : Addr) (l : List Nat) (h : P s) :
    P (s.resettleAll scan a l) := by
  refine foldl_closed (fun s n h => ?_) l h
  cases hw : s.store.waiting n with
  | none => exact h
  | some f => exact C.resettle hscan a f (.inl ⟨f, State.mem_of_waiting hw, rfl⟩) h

theorem forgetRoutes (a : Addr) (h : P s) : P (s.forgetRoutes a) := by
  have h1 := C.trails s (s.route.trails.filter fun t => t.next ≠ a) List.filter_sublist h
  let s1 : State := { s with route := { s.route with
    trails := s.route.trails.filter fun t => t.next ≠ a
    parents := s.route.parents.filter fun p => p.address ≠ a } }
  have h2 : P s1 := C.parents _ (s.route.parents.filter fun p => p.address ≠ a) s.route.ownU h1
  exact C.work s1 { s.work with
    review := true
    oldParents := some (s.work.oldParents.getD s.route.parents) } rfl h2

theorem forgetPlan (a : Addr) (h : P s) : P (s.forgetPlan a) := by
  unfold State.forgetPlan
  have h' : P (s.planWith fun p => { p with marks := p.marks.filter (·.1 ≠ a) }) :=
    C.planner s _ _ _ _ ⟨fun h => ⟨h, rfl⟩, .inr rfl⟩ h
  simp only []
  split
  · split
    · split
      · exact C.planner _ _ _ _ _ ⟨fun h => ⟨h, rfl⟩, .inr rfl⟩ h'
      · rename_i hb
        exact C.callRecompute (C.clearPlan hb h')
    · exact h'
  · exact h'

theorem evict {scan : State → State} (hscan : ∀ s, P s → P (scan s)) (a : Addr) (why : EvictReason) (h : P s) :
    P (s.evict scan a why) := by
  unfold State.evict
  apply C.notify
  apply C.reportTarget
  apply C.resettleAll hscan
  exact C.rewritten _ _ (fun g => by split <;> exact ⟨rfl, rfl⟩)
    (C.forgetPlan a (C.forgetRoutes a (C.places s _ (keepsPlaces_filter _ _) h)))

theorem visitSend (b : Box) (r : List Byte) (hb : s.port.backlog.contains b = true) (h : P s) : P (s.visitSend b r) := by
  unfold State.visitSend
  simp only []
  split
  · exact C.finishBox _ _ _ _ (C.counters s _ h)
  · exact C.finishBox _ _ _ _ h
  · exact h
  · rename_i hj
    exact C.storeFrame _ (State.free_of_take hj) (C.record _ _ _ (C.sequence _ _ (C.takeBox s b hb h)))

theorem decideMask (m : Mask) (h : P s) : P (s.decideMask m) := by
  unfold State.decideMask
  simp only []
  repeat' split
  all_goals first | exact h | exact C.survey s _ _ _ _ h

theorem setAddress (old : Settings) (h : P s) : P (s.setAddress old) := by
  unfold State.setAddress
  split
  · exact h
  · simp only []
    apply C.trails _ _ List.filter_sublist
    split
    · exact C.evict (fun _ h => h) _ _ h
    · exact h

theorem setSurvey (old : Settings) (h : P s) : P (s.setSurvey old) := by
  unfold State.setSurvey
  split
  · exact C.decideMask _ (C.survey s _ _ _ _ h)
  · split
    · exact C.survey s _ _ _ _ h
    · exact h

theorem setReview (old : Settings) (h : P s) : P (s.setReview old) := by
  unfold State.setReview
  split
  · exact C.reviewIfDue (C.callReview h)
  · exact C.reviewIfDue h

theorem setMarks (old : Settings) (h : P s) : P (s.setMarks old) := by
  unfold State.setMarks
  split
  · exact C.evalFlow h
  · exact h

theorem setLevel (old : Settings) (h : P s) : P (s.setLevel old) := by
  unfold State.setLevel
  split
  · exact C.level s h
  · exact h

theorem setListen (old : Settings) (e : Nat) (h : P s) : P (s.setListen old e) := by
  unfold State.setListen
  split
  · exact C.replaceListen h
  · exact h

theorem applySet (ps : List Pair) (hp : s.setFailure ps = none) (h : P s) : P (s.applySet ps) :=
  C.setListen _ _ (C.setLevel _ (C.setMarks _ (C.setReview _ (C.setSurvey _ (C.setAddress _ (C.settings s ps hp h))))))

theorem visitSet (b : Box) (r : List Byte) (h : P s) : P (s.visitSet b r) := by
  unfold State.visitSet
  simp only []
  split
  · exact C.finishBox _ _ _ _ h
  · split
    · exact C.finishBox _ _ _ _ (C.applySet _ (by assumption) h)
    · exact C.finishBox _ _ _ _ (C.applySet _ (by assumption) h)

theorem visitQuery (b : Box) (r : List Byte) (h : P s) : P (s.visitQuery b r) := by
  unfold State.visitQuery
  simp only []
  split
  · exact C.finishBox _ _ _ _ h
  · exact C.finishBox _ _ _ _ h

theorem visitPin (b : Box) (r : List Byte) (h : P s) : P (s.visitPin b r) := by
  unfold State.visitPin
  simp only []
  split
  · exact C.finishBox _ _ _ _ h
  · split
    · exact C.finishBox _ _ _ _ h
    · split
      · exact C.finishBox _ _ _ _ h
      · exact C.finishBox _ _ _ _ (C.pin s _ (by simp_all) (by omega) h)

theorem visitUnpin (b : Box) (r : List Byte) (h : P s) : P (s.visitUnpin b r) := by
  unfold State.visitUnpin
  simp only []
  split
  · exact C.finishBox _ _ _ _ h
  · exact C.finishBox _ _ _ _ (C.unpin s _ h)

theorem barred (a : Addr) (hc : s.nbr.bars.contains a = false) (hl : s.nbr.bars.length < 8) (h : P s) :
    P (s.barred a) := by
  unfold State.barred
  have h' := C.bar s a hc hl h
  simp only []
  split
  · exact C.reviewIfDue (C.evict (fun _ h => h) a _ h')
  · exact h'

theorem visitBar (b : Box) (r : List Byte) (h : P s) : P (s.visitBar b r) := by
  unfold State.visitBar
  simp only []
  split
  · exact C.finishBox _ _ _ _ h
  · split
    · exact C.finishBox _ _ _ _ h
    · split
      · exact C.finishBox _ _ _ _ h
      · exact C.finishBox _ _ _ _ (C.barred _ (by simp_all) (by omega) h)

theorem visitUnbar (b : Box) (r : List Byte) (h : P s) : P (s.visitUnbar b r) := by
  unfold State.visitUnbar
  simp only []
  split
  · exact C.finishBox _ _ _ _ h
  · exact C.finishBox _ _ _ _ (C.unbar s _ h)

theorem handle (b : Box) (hb : s.port.backlog.contains b = true) (h : P s) : P (s.handle b) := by
  unfold State.handle
  simp only []
  split
  · exact C.finishBox _ _ _ _ h
  · exact C.visitSend b _ hb h
  · exact C.visitSet b _ h
  · exact C.visitQuery b _ h
  · exact C.visitPin b _ h
  · exact C.visitUnpin b _ h
  · exact C.visitBar b _ h
  · exact C.visitUnbar b _ h

theorem visit (b : Box) (h : P s) : P (s.visit b) := by
  unfold State.visit
  split
  · rename_i hv
    simp only [Port.visits, Bool.and_eq_true] at hv
    exact C.settleQuiet _ (C.handle b hv.1 h)
  · exact h

theorem scanOnce (h : P s) : P s.scanOnce := foldl_closed (fun _ b h => C.visit b h) _ (C.scanFlag s false h)

theorem scans (n : Nat) (h : P s) : P (s.scans n) := by
  induction n generalizing s with
  | zero => exact h
  | succ n ih =>
    unfold State.scans
    split
    · exact ih (C.scanOnce h)
    · exact h

theorem runScan (h : P s) : P s.runScan := C.scans _ h

theorem settle (n : Nat) (h : P s) : P (State.settle n s) := by
  induction n generalizing s with
  | zero => exact h
  | succ n ih =>
    unfold State.settle
    split
    · exact ih (C.losePlan h)
    · split
      · exact ih (C.runScan h)
      · split
        · exact h
        · exact ih (C.quietRound h)

/-- A property closed under the primitive changes of a scan and of follow-up work holds at the end of the event. -/
theorem finish (h : P s) : P s.finish := by
  have h1 := C.scanFlag _ false (C.settle settleRounds h)
  have h2 := C.work _ {} rfl h1
  exact h2

end ScanClosed

end Sys2Proof.Machine
end

