-- ==== Sys2Proof/Laws/Calm.lean ====
section
/-! SUPPORT. Review, passes, claim placement and recomputation leave the calm part of the state alone, and a scan leaves
the steady part alone: two instances of the closure of Closed.lean, with what they say of `finish`. -/

namespace Sys2Proof.Machine

/-! ## The calm part -/

@[simp] theorem State.latchPage_calm (s : State) : s.latchPage.calm = s.calm := by
  unfold State.latchPage
  simp only []
  split <;> simp only [State.calm, Port.writePage]

@[simp] theorem State.attentionTest_calm (s : State) : s.attentionTest.calm = s.calm := by
  unfold State.attentionTest
  split
  · rw [State.latchPage_calm]; simp only [State.calm, State.attend, Attention.assert]
  · rfl

@[simp] theorem Attention.triggerTest_mask (n : Nat) (a : Attention) : (a.triggerTest n).mask = a.mask := by
  unfold Attention.triggerTest
  split <;> rfl

@[simp] theorem Attention.completed_mask (a : Attention) (n : Nat) (e : Tick) (alarm : Bool) :
    (a.completed n e alarm).mask = a.mask := by
  unfold Attention.completed
  simp only []
  split <;> simp

/-- Rewriting the attention unit without its mask leaves the calm part alone. -/
theorem State.attend_calm (s : State) (f : Attention → Attention) (h : (f s.port.attention).mask = s.port.attention.mask) :
    (s.attend f).calm = s.calm := by
  simp only [State.attend, State.calm, h]

@[simp] theorem State.completion_calm (s : State) (alarm : Bool) : (s.completion alarm).calm = s.calm := by
  unfold State.completion
  rw [State.attentionTest_calm, State.attend_calm]
  simp

@[simp] theorem State.fillBox_calm (s : State) (b : Box) (r : List Byte) (alarm : Bool) :
    (s.fillBox b r alarm).calm = s.calm := by
  unfold State.fillBox
  rw [State.completion_calm]
  rfl

@[simp] theorem State.queueNotice_calm (s : State) (n : Notice) : (s.queueNotice n).calm = s.calm := by
  unfold State.queueNotice
  split <;> rfl

/-- Follow-up work other than a scan leaves the calm part alone. -/
theorem calm_closed (c : Calm) : QuietClosed fun s => s.calm = c where
  work _ _ _ h := h
  radio _ _ _ _ h := h
  claims _ _ _ h := h
  granted _ _ _ h := h
  places _ _ _ h := h
  parents _ _ _ h := h
  queued _ _ _ h := h
  parked _ _ _ _ h := h
  planner _ _ _ _ _ _ h := h
  recv _ _ _ h := h
  counters _ _ h := h
  fill s b r alarm _ h := by simpa using h
  overflow _ _ h := h
  queueNotice s n h := by simpa using h

@[simp] theorem State.completion_work (s : State) (alarm : Bool) : (s.completion alarm).work = s.work := by
  unfold State.completion State.attentionTest State.latchPage
  simp only []
  split
  · split <;> simp only [State.attend]
  · simp only [State.attend]

@[simp] theorem State.fillBox_work (s : State) (b : Box) (r : List Byte) (alarm : Bool) :
    (s.fillBox b r alarm).work = s.work := by
  unfold State.fillBox
  rw [State.completion_work]
  rfl

@[simp] theorem State.queueNotice_work (s : State) (n : Notice) : (s.queueNotice n).work = s.work := by
  unfold State.queueNotice
  split <;> rfl

/-- Follow-up work other than a scan calls for no scan and leaves the calm part alone. -/
theorem unscanned_closed (c : Calm) : QuietClosed fun s => s.work.scan = false ∧ s.calm = c where
  work _ _ hw h := ⟨hw.trans h.1, h.2⟩
  radio _ _ _ _ h := h
  claims _ _ _ h := h
  granted _ _ _ h := h
  places _ _ _ h := h
  parents _ _ _ h := h
  queued _ _ _ h := h
  parked _ _ _ _ h := h
  planner _ _ _ _ _ _ h := h
  recv _ _ _ h := h
  counters _ _ h := h
  fill s b r alarm _ h := by simpa using h
  overflow _ _ h := h
  queueNotice s n h := by simpa using h

/-- With no scan called for, a quietly closed property holds through the whole settling. -/
theorem QuietClosed.settle_of_unscanned {P : State → Prop} (C : QuietClosed fun s => s.work.scan = false ∧ P s) (n : Nat)
    {s : State} (hw : s.work.scan = false) (h : P s) :
    (State.settle n s).work.scan = false ∧ P (State.settle n s) := by
  induction n generalizing s with
  | zero => exact ⟨hw, h⟩
  | succ n ih =>
    unfold State.settle
    split
    · have := C.losePlan ⟨hw, h⟩
      exact ih this.1 this.2
    · rw [hw]
      simp only [Bool.false_eq_true, if_false]
      split
      · exact ⟨hw, h⟩
      · have := C.quietRound ⟨hw, h⟩
        exact ih this.1 this.2

/-- An event that calls for no scan leaves the calm part as its own effect left it. -/
theorem State.finish_calm {s : State} (hw : s.work.scan = false) : s.finish.calm = s.calm :=
  (QuietClosed.settle_of_unscanned (unscanned_closed s.calm) settleRounds hw rfl).2

/-- An event that calls for nothing ends as it stands. -/
theorem State.finish_of_idle {s : State} (hw : s.work = {}) : s.finish = s := by
  have h : State.settle settleRounds s = s := by
    unfold settleRounds State.settle
    simp [hw, Work.quiet]
  unfold State.finish
  rw [h]
  cases s
  simp_all

/-- With an empty backlog a scan does nothing but take its own call back. -/
theorem State.runScan_of_empty {s : State} (hb : s.port.backlog = []) :
    s.runScan = { s with work := { s.work with scan := false } } := by
  unfold State.runScan State.scans
  split
  · unfold State.scanOnce State.scans
    simp [hb]
  · rename_i h
    have h : s.work.scan = false := by simpa using h
    cases s
    simp_all
    cases ‹Work›
    simp_all

/-- An event that ends with an empty backlog keeps a quietly closed property that no scan's call disturbs. -/
theorem QuietClosed.finish_of_empty {P : State → Prop} (C : QuietClosed P)
    (hscan : ∀ s b, P s → P { s with work := { s.work with scan := b } }) (hempty : ∀ s, P s → s.port.backlog = [])
    {s : State} (h : P s) : P s.finish := by
  have key : ∀ n s, P s → P (State.settle n s) := by
    intro n
    induction n with
    | zero => exact fun _ h => h
    | succ n ih =>
      intro s h
      unfold State.settle
      split
      · exact ih _ (C.losePlan h)
      · split
        · rw [State.runScan_of_empty (hempty s h)]
          exact ih _ (hscan s false h)
        · split
          · exact h
          · exact ih _ (C.quietRound h)
  have h1 := hscan _ false (key settleRounds s h)
  have h2 := C.work _ {} rfl h1
  exact h2

/-- An event that ends with an empty backlog leaves the calm part as its own effect left it. -/
theorem State.finish_calm_of_empty {s : State} (hb : s.port.backlog = []) : s.finish.calm = s.calm :=
  (calm_closed s.calm).finish_of_empty (fun _ _ h => h)
    (fun _ h => (congrArg Calm.backlog h).trans hb) rfl

/-! ## The steady part -/

theorem State.finishBox_steady (s : State) (b : Box) (c : OutcomeCode) (d : List Byte) :
    (s.finishBox b c d).steady = s.steady := by
  unfold State.finishBox State.steady
  rw [State.completion_calm]
  rfl

theorem State.attentionLevel_steady (s : State) : s.attentionLevel.steady = s.steady := by
  unfold State.attentionLevel State.steady
  rw [State.attentionTest_calm, State.attend_calm]
  simp

/-- A scan, and with it all follow-up work, leaves the steady part alone. -/
theorem steady_closed (c : Steady) : ScanClosed fun s => s.steady = c where
  toQuietClosed :=
    { work := fun _ _ _ h => h
      radio := fun _ _ _ _ h => h
      claims := fun _ _ _ h => h
      granted := fun _ _ _ h => h
      places := fun _ _ _ h => h
      parents := fun _ _ _ h => h
      queued := fun _ _ _ h => h
      parked := fun _ _ _ _ h => h
      planner := fun _ _ _ _ _ _ h => h
      recv := fun _ _ _ h => h
      counters := fun _ _ h => h
      fill := fun s b r alarm _ h => by simpa [State.steady] using h
      overflow := fun _ _ h => h
      queueNotice := fun s n h => by simpa [State.steady] using h }
  scanFlag _ _ h := h
  flow _ _ h := h
  serial _ h := h
  staged _ _ _ _ h := h
  removed _ _ h := h
  rewritten _ _ _ h := h
  sequence _ _ h := h
  record _ _ _ h := h
  trails _ _ _ h := h
  survey _ _ _ _ _ h := h
  settings _ _ _ h := h
  level s h := (State.attentionLevel_steady s).trans h
  finishBox s b c d h := (State.finishBox_steady s b c d).trans h
  takeBox _ _ _ h := h
  pin _ _ _ _ h := h
  unpin _ _ h := h
  bar _ _ _ _ h := h
  unbar _ _ h := h

/-- The end of an event leaves the steady part as the event's own effect left it. -/
theorem State.finish_steady (s : State) : s.finish.steady = s.steady := (steady_closed s.steady).finish rfl

@[simp] theorem State.finish_work (s : State) : s.finish.work = {} := rfl

end Sys2Proof.Machine
end

