-- ==== Sys2Proof/Laws/Memory.lean ====
section
/-! SUPPORT. The laws of the exchange memory: a read after a write, and that every operation over it keeps the canonical
form. -/

namespace Sys2Proof.Machine

/-! ## Read after write -/

/-- Below its lowest admissible address a canonical memory reads blank. -/
theorem Memory.read_below {m : Memory} {lo a : Nat} (h : Memory.wfFrom lo m = true) (ha : a < lo) :
    Memory.read m a = Memory.blank := by
  cases m with
  | nil => rfl
  | cons c m =>
    obtain ⟨b, v⟩ := c
    simp only [Memory.wfFrom, Bool.and_eq_true, decide_eq_true_eq] at h
    unfold Memory.read
    rw [if_neg (by omega), if_pos (by omega)]

/-- A read after a write gives the byte written at its address and what stood there at every other one. -/
theorem Memory.read_write {m : Memory} {lo : Nat} (h : Memory.wfFrom lo m = true) (a x : Nat) (v : Byte) :
    Memory.read (Memory.write m a v) x = if x = a then v else Memory.read m x := by
  induction m generalizing lo with
  | nil =>
    unfold Memory.write
    split <;> by_cases hx : x = a <;> simp_all [Memory.read]
  | cons c m ih =>
    obtain ⟨b, w⟩ := c
    simp only [Memory.wfFrom, Bool.and_eq_true, decide_eq_true_eq] at h
    have hb := h.2
    unfold Memory.write
    split
    · rename_i hab
      split
      · rename_i hv
        by_cases hx : x = a
        · subst hx
          simp [Memory.read, hv, hab, Nat.ne_of_lt hab]
        · simp [hx]
      · by_cases hx : x = a
        · subst hx; simp [Memory.read]
        · rw [if_neg hx, Memory.read, if_neg hx]
          split
          · rename_i hlt
            rw [Memory.read, if_neg (by omega), if_pos (by omega)]
          · rfl
    · rename_i hab
      split
      · rename_i heq
        subst heq
        split
        · rename_i hv
          by_cases hx : x = a
          · subst hx
            rw [if_pos rfl, Memory.read_below hb (by omega), hv]
          · rw [if_neg hx, Memory.read, if_neg hx]
            split
            · rename_i hlt; exact Memory.read_below hb (by omega)
            · rfl
        · by_cases hx : x = a
          · subst hx; simp [Memory.read]
          · rw [if_neg hx, Memory.read, Memory.read, if_neg hx, if_neg hx]
      · rename_i hne
        rw [Memory.read, ih hb, Memory.read]
        by_cases hx : x = b
        · subst hx; simp; intro h; omega
        · rw [if_neg hx, if_neg hx]
          split
          · rw [if_neg (by omega)]
          · rfl

/-! ## The canonical form -/

theorem Memory.wfFrom_mono {m : Memory} {lo lo' : Nat} (h : Memory.wfFrom lo m = true) (hl : lo' ≤ lo) :
    Memory.wfFrom lo' m = true := by
  cases m with
  | nil => rfl
  | cons c m =>
    obtain ⟨b, v⟩ := c
    simp only [Memory.wfFrom, Bool.and_eq_true, decide_eq_true_eq] at h ⊢
    exact ⟨⟨⟨by omega, h.1.1.2⟩, h.1.2⟩, h.2⟩

/-- A write at an address of the space keeps the canonical form. -/
theorem Memory.wfFrom_write {m : Memory} {lo : Nat} (h : Memory.wfFrom lo m = true) {a : Nat} (hlo : lo ≤ a)
    (ha : a < 0x8000) (v : Byte) : Memory.wfFrom lo (Memory.write m a v) = true := by
  induction m generalizing lo with
  | nil =>
    unfold Memory.write
    split
    · rfl
    · simp_all [Memory.wfFrom]
  | cons c m ih =>
    obtain ⟨b, w⟩ := c
    have h' := h
    simp only [Memory.wfFrom, Bool.and_eq_true, decide_eq_true_eq] at h
    unfold Memory.write
    split
    · split
      · exact h'
      · simp only [Memory.wfFrom, Bool.and_eq_true, decide_eq_true_eq]
        exact ⟨⟨⟨hlo, ha⟩, by assumption⟩, ⟨⟨⟨by omega, h.1.1.2⟩, h.1.2⟩, h.2⟩⟩
    · split
      · split
        · exact Memory.wfFrom_mono h.2 (by omega)
        · simp only [Memory.wfFrom, Bool.and_eq_true, decide_eq_true_eq]
          exact ⟨⟨⟨by omega, h.1.1.2⟩, by assumption⟩, h.2⟩
      · simp only [Memory.wfFrom, Bool.and_eq_true, decide_eq_true_eq]
        exact ⟨h.1, ih h.2 (by omega)⟩

/-- A write keeps the canonical form. -/
theorem Memory.wf_write {m : Memory} (h : m.wf = true) {a : Nat} (ha : a < 0x8000) (v : Byte) :
    Memory.wf (Memory.write m a v) = true := Memory.wfFrom_write h (by omega) ha v

/-- A run of bytes written keeps the canonical form. -/
theorem Memory.wf_writeRun {m : Memory} (h : m.wf = true) (bs : List Byte) {a : Nat} (ha : a + bs.length ≤ 0x8000) :
    Memory.wf (Memory.writeRun m a bs) = true := by
  induction bs generalizing m a with
  | nil => exact h
  | cons v vs ih =>
    simp only [List.length_cons] at ha
    exact ih (Memory.wf_write h (by omega) v) (by omega)

/-- A read after a run of bytes written: the run's byte inside it, what stood there outside. -/
theorem Memory.read_writeRun {m : Memory} (h : m.wf = true) (bs : List Byte) {a : Nat} (ha : a + bs.length ≤ 0x8000)
    (x : Nat) :
    Memory.read (Memory.writeRun m a bs) x =
      if a ≤ x ∧ x < a + bs.length then bs.getD (x - a) 0 else Memory.read m x := by
  induction bs generalizing m a with
  | nil => rw [if_neg (by simp)]; rfl
  | cons v vs ih =>
    simp only [List.length_cons] at ha
    rw [Memory.writeRun, ih (Memory.wf_write h (by omega) v) (by omega), Memory.read_write h]
    by_cases hx : x = a
    · subst hx; simp
    · by_cases hi : a + 1 ≤ x ∧ x < a + 1 + vs.length
      · rw [if_pos hi, if_pos (by simp only [List.length_cons]; omega)]
        obtain ⟨k, rfl⟩ : ∃ k, x = a + 1 + k := ⟨x - (a + 1), by omega⟩
        rw [show a + 1 + k - (a + 1) = k by omega, show a + 1 + k - a = k + 1 by omega]
        rfl
      · rw [if_neg hi, if_neg hx, if_neg (by simp only [List.length_cons]; omega)]

/-- The bytes of a run just written are the run. -/
theorem Memory.readRun_length (m : Memory) (a n : Nat) : (Memory.readRun m a n).length = n := by
  induction n generalizing a with
  | zero => rfl
  | succ n ih => simp [Memory.readRun, ih]

/-! ## The engine's writes -/

theorem padTo_length (n : Nat) (bs : List Byte) : (padTo n bs).length = n := by
  simp [padTo]; omega

theorem bodyAddr_lt (b : Box) : bodyAddr b + 256 ≤ 0x8000 := by
  unfold bodyAddr
  have := b.isLt
  omega

theorem Port.writeBody_wf {p : Port} (h : p.mem.wf = true) (b : Box) (bs : List Byte) :
    (p.writeBody b bs).mem.wf = true := by
  apply Memory.wf_writeRun h
  rw [padTo_length]
  exact bodyAddr_lt b

theorem Port.writeMap_wf {p : Port} (h : p.mem.wf = true) (b : Box) (c : MapCode) : (p.writeMap b c).mem.wf = true :=
  Memory.wf_write h (by have := b.isLt; omega) _

theorem Port.writePage_wf {p : Port} (h : p.mem.wf = true) (page : List Byte) (hl : page.length = 128) :
    (p.writePage page).mem.wf = true :=
  Memory.wf_writeRun h _ (by rw [hl]; decide)

theorem State.pageBytes_length (s : State) (n : BitVec 16) : (s.pageBytes n).length = 128 := padTo_length _ _

/-! ## The form through a whole event -/

/-- The form is a matter of the memory and the held page alone. -/
theorem State.memOk_congr {s t : State} (hm : t.port.mem = s.port.mem) (hs : t.port.snapshot = s.port.snapshot)
    (h : s.memOk) : t.memOk := by
  unfold State.memOk
  rw [hm, hs]
  exact h

theorem State.memOk_latchPage {s : State} (h : s.memOk) : s.latchPage.memOk := by
  unfold State.latchPage
  simp only []
  split
  · refine ⟨h.1, fun page hp => ?_⟩
    simp only [Option.mem_def, Option.some.injEq] at hp
    rw [← hp]
    exact State.pageBytes_length _ _
  · refine ⟨Port.writePage_wf h.1 _ (State.pageBytes_length _ _), ?_⟩
    simp only [Port.writePage]
    exact h.2

theorem State.memOk_attend {s : State} (h : s.memOk) (f : Attention → Attention) : (s.attend f).memOk :=
  State.memOk_congr (s := s) (by simp only [State.attend]) (by simp only [State.attend]) h

theorem State.memOk_attentionTest {s : State} (h : s.memOk) : s.attentionTest.memOk := by
  unfold State.attentionTest
  split
  · exact State.memOk_latchPage (s := s.attend Attention.assert) (State.memOk_attend h Attention.assert)
  · exact h

theorem State.memOk_completion {s : State} (h : s.memOk) (alarm : Bool) : (s.completion alarm).memOk := by
  unfold State.completion
  exact State.memOk_attentionTest (State.memOk_attend h _)

theorem State.memOk_fillBox {s : State} (h : s.memOk) (b : Box) (r : List Byte) (alarm : Bool) :
    (s.fillBox b r alarm).memOk := by
  unfold State.fillBox
  apply State.memOk_completion
  exact ⟨Port.writeMap_wf (Port.writeBody_wf h.1 b r) b .filled, h.2⟩

theorem State.memOk_finishBox {s : State} (h : s.memOk) (b : Box) (c : OutcomeCode) (d : List Byte) :
    (s.finishBox b c d).memOk := by
  unfold State.finishBox
  apply State.memOk_completion
  exact ⟨Port.writeMap_wf (Port.writeBody_wf h.1 b _) b .done, h.2⟩

/-- The canonical form survives everything a scan and follow-up work do. -/
theorem memOk_closed : ScanClosed State.memOk where
  toQuietClosed :=
    { work := fun _ _ _ h => h
      radio := fun _ _ _ _ h => h
      claims := fun _ _ _ h => h
      granted := fun _ _ _ h => h
      places := fun _ _ _ h => h
      parents := fun _ _ _ h => h
      queued := fun _ _ _ h => h
      parked := fun _ _ _ _ h => h
      planner := fun _ _ _ _ _ _ h => h
      recv := fun _ _ _ h => h
      counters := fun _ _ h => h
      fill := fun _ _ _ _ _ h => State.memOk_fillBox h _ _ _
      overflow := fun _ _ h => h
      queueNotice := fun s n h => by unfold State.queueNotice; split <;> exact h }
  scanFlag _ _ h := h
  flow _ _ h := h
  serial _ h := h
  staged _ _ _ _ h := h
  removed _ _ h := h
  rewritten _ _ _ h := h
  sequence _ _ h := h
  record _ _ _ h := h
  trails _ _ _ h := h
  survey _ _ _ _ _ h := h
  settings _ _ _ h := h
  level s h := State.memOk_attentionTest (State.memOk_attend h _)
  finishBox _ _ _ _ h := State.memOk_finishBox h _ _ _
  takeBox _ _ _ h := ⟨Port.writeMap_wf h.1 _ _, h.2⟩
  pin _ _ _ _ h := h
  unpin _ _ h := h
  bar _ _ _ _ h := h
  unbar _ _ h := h

/-- The end of an event keeps the canonical form. -/
theorem State.memOk_finish {s : State} (h : s.memOk) : s.finish.memOk := memOk_closed.finish h

/-- The memory after power-on is in its canonical form. -/
theorem State.memOk_reset : State.reset.memOk := ⟨rfl, fun _ h => nomatch h⟩

end Sys2Proof.Machine
end

