-- ==== Sys2Proof/Laws/Invariants.lean ====
section
/-! SUPPORT. The invariants of the manual's collections survive scans and follow-up work: the recent list, the pin and bar
lists, the three box collections and the notice queue. -/

namespace Sys2Proof.Machine

/-! ## The recent list (R114) -/

theorem recordPair_ok {l : List (Addr × Byte)} (hl : l.length ≤ 32) (hn : l.Nodup) (p : Addr × Byte) :
    (recordPair l p).length ≤ 32 ∧ (recordPair l p).Nodup := by
  have h1 : (l.filter (· ≠ p)).length ≤ 32 := le_trans (List.length_filter_le _ _) hl
  have h2 : (l.filter (· ≠ p)).Nodup := hn.filter _
  have h3 : p ∉ l.filter (· ≠ p) := by simp
  unfold recordPair
  simp only []
  split
  · refine ⟨by simp only [List.length_append, List.length_singleton]; omega, ?_⟩
    rw [List.nodup_append]
    exact ⟨h2, List.nodup_singleton _, by intro a ha b hb hab; simp at hb; subst hb; subst hab; exact h3 ha⟩
  · refine ⟨by simp only [List.length_append, List.length_drop, List.length_singleton]; omega, ?_⟩
    rw [List.nodup_append]
    refine ⟨h2.sublist (List.drop_sublist _ _), List.nodup_singleton _, ?_⟩
    intro a ha b hb hab
    simp at hb
    subst hb; subst hab
    exact h3 (List.mem_of_mem_drop ha)

theorem recentOk_closed : ScanClosed State.recentOk where
  toQuietClosed :=
    { work := fun _ _ _ h => h
      radio := fun _ _ _ _ h => h
      claims := fun _ _ _ h => h
      granted := fun _ _ _ h => h
      places := fun _ _ _ h => h
      parents := fun _ _ _ h => h
      queued := fun _ _ _ h => h
      parked := fun _ _ _ _ h => h
      planner := fun _ _ _ _ _ _ h => h
      recv := fun _ _ _ h => h
      counters := fun _ _ h => h
      fill := fun s b r alarm _ h => by
        have : (s.fillBox b r alarm).store.recent = s.store.recent := congrArg Calm.recent (s.fillBox_calm b r alarm)
        unfold State.recentOk; rw [this]; exact h
      overflow := fun _ _ h => h
      queueNotice := fun s n h => by
        have : (s.queueNotice n).store.recent = s.store.recent := congrArg Calm.recent (s.queueNotice_calm n)
        unfold State.recentOk; rw [this]; exact h }
  scanFlag _ _ h := h
  flow _ _ h := h
  serial _ h := h
  staged _ _ _ _ h := h
  removed _ _ h := h
  rewritten _ _ _ h := h
  sequence _ _ h := h
  record _ _ _ h := recordPair_ok h.1 h.2 _
  trails _ _ _ h := h
  survey _ _ _ _ _ h := h
  settings _ _ _ h := h
  level s h := by
    have : s.attentionLevel.store = s.store := by
      unfold State.attentionLevel State.attentionTest State.latchPage
      simp only []
      repeat' split
      all_goals simp only [State.attend]
    unfold State.recentOk; rw [this]; exact h
  finishBox s b c d h := by
    have : (s.finishBox b c d).store = s.store := by
      unfold State.finishBox State.completion State.attentionTest State.latchPage
      simp only []
      repeat' split
      all_goals simp only [State.attend, State.nextSerial]
    unfold State.recentOk; rw [this]; exact h
  takeBox _ _ _ h := h
  pin _ _ _ _ h := h
  unpin _ _ h := h
  bar _ _ _ _ h := h
  unbar _ _ h := h

/-- The recent list keeps its bounds through the end of an event. -/
theorem State.recentOk_finish {s : State} (h : s.recentOk) : s.finish.recentOk := recentOk_closed.finish h

/-! ## The pin and bar lists (R71, R72) -/

theorem nodup_snoc {α : Type} {l : List α} {a : α} (h : l.Nodup) (ha : a ∉ l) : (l ++ [a]).Nodup := by
  rw [List.nodup_append]
  refine ⟨h, List.nodup_singleton _, ?_⟩
  intro x hx y hy hxy
  simp at hy
  subst hy; subst hxy
  exact ha hx

/-- A box write by the engine touches nothing but the port and the completion serial. -/
theorem State.completion_nbr (s : State) (alarm : Bool) : (s.completion alarm).nbr = s.nbr := by
  unfold State.completion State.attentionTest State.latchPage
  simp only []
  repeat' split
  all_goals simp only [State.attend]

theorem State.finishBox_nbr (s : State) (b : Box) (c : OutcomeCode) (d : List Byte) :
    (s.finishBox b c d).nbr = s.nbr := by
  unfold State.finishBox
  rw [State.completion_nbr]
  simp only [State.nextSerial]

theorem State.fillBox_nbr (s : State) (b : Box) (r : List Byte) (alarm : Bool) : (s.fillBox b r alarm).nbr = s.nbr := by
  unfold State.fillBox
  rw [State.completion_nbr]
  simp only [State.nextSerial]

theorem State.attentionLevel_nbr (s : State) : s.attentionLevel.nbr = s.nbr := by
  unfold State.attentionLevel State.attentionTest State.latchPage
  simp only []
  repeat' split
  all_goals simp only [State.attend]

theorem listsOk_closed : ScanClosed State.listsOk where
  toQuietClosed :=
    { work := fun _ _ _ h => h
      radio := fun _ _ _ _ h => h
      claims := fun _ _ _ h => h
      granted := fun _ _ _ h => h
      places := fun _ _ _ h => h
      parents := fun _ _ _ h => h
      queued := fun _ _ _ h => h
      parked := fun _ _ _ _ h => h
      planner := fun _ _ _ _ _ _ h => h
      recv := fun _ _ _ h => h
      counters := fun _ _ h => h
      fill := fun s b r alarm _ h => by unfold State.listsOk; rw [State.fillBox_nbr]; exact h
      overflow := fun _ _ h => h
      queueNotice := fun s n h => by unfold State.queueNotice; split <;> exact h }
  scanFlag _ _ h := h
  flow _ _ h := h
  serial _ h := h
  staged _ _ _ _ h := h
  removed _ _ h := h
  rewritten _ _ _ h := h
  sequence _ _ h := h
  record _ _ _ h := h
  trails _ _ _ h := h
  survey _ _ _ _ _ h := h
  settings _ _ _ h := h
  level s h := by unfold State.listsOk; rw [State.attentionLevel_nbr]; exact h
  finishBox s b c d h := by unfold State.listsOk; rw [State.finishBox_nbr]; exact h
  takeBox _ _ _ h := h
  pin s a hc hl h := by
    refine ⟨?_, nodup_snoc h.2.1 (by simpa using hc), ?_, h.2.2.2.filter _⟩
    · show (s.nbr.pins ++ [a]).length ≤ 8
      simp only [List.length_append, List.length_singleton]; omega
    · exact le_trans (List.length_filter_le _ _) h.2.2.1
  unpin _ _ h := ⟨le_trans (List.length_filter_le _ _) h.1, h.2.1.filter _, h.2.2⟩
  bar s a hc hl h := by
    refine ⟨le_trans (List.length_filter_le _ _) h.1, h.2.1.filter _, ?_, nodup_snoc h.2.2.2 (by simpa using hc)⟩
    show (s.nbr.bars ++ [a]).length ≤ 8
    simp only [List.length_append, List.length_singleton]; omega
  unbar _ _ h := ⟨h.1, h.2.1, le_trans (List.length_filter_le _ _) h.2.2.1, h.2.2.2.filter _⟩

/-- The pin and bar lists keep their bounds through the end of an event. -/
theorem State.listsOk_finish {s : State} (h : s.listsOk) : s.finish.listsOk := listsOk_closed.finish h

/-! ## The notice queue (R189) -/

theorem noticesOk_closed : ScanClosed State.noticesOk where
  toQuietClosed :=
    { work := fun _ _ _ h => h
      radio := fun _ _ _ _ h => h
      claims := fun _ _ _ h => h
      granted := fun _ _ _ h => h
      places := fun _ _ _ h => h
      parents := fun _ _ _ h => h
      queued := fun _ _ _ h => h
      parked := fun _ _ _ _ h => h
      planner := fun _ _ _ _ _ _ h => h
      recv := fun _ _ _ h => h
      counters := fun _ _ h => h
      fill := fun s b r alarm _ h => by
        have : (s.fillBox b r alarm).req.notices = s.req.notices := by
          unfold State.fillBox State.completion State.attentionTest State.latchPage
          simp only []
          repeat' split
          all_goals simp only [State.attend, State.nextSerial]
        unfold State.noticesOk; rw [this]; exact h
      overflow := fun _ _ h => h
      queueNotice := fun s n h => by
        unfold State.queueNotice
        split
        · show (s.req.notices ++ [n]).length ≤ 8
          simp only [List.length_append, List.length_singleton]; omega
        · show (s.req.notices.drop 1 ++ [n]).length ≤ 8
          unfold State.noticesOk at h
          simp only [List.length_append, List.length_drop, List.length_singleton]; omega }
  scanFlag _ _ h := h
  flow _ _ h := h
  serial _ h := h
  staged _ _ _ _ h := h
  removed _ _ h := h
  rewritten _ _ _ h := h
  sequence _ _ h := h
  record _ _ _ h := h
  trails _ _ _ h := h
  survey _ _ _ _ _ h := h
  settings _ _ _ h := h
  level s h := by
    have : s.attentionLevel.req = s.req := by
      unfold State.attentionLevel State.attentionTest State.latchPage
      simp only []
      repeat' split
      all_goals simp only [State.attend]
    unfold State.noticesOk; rw [this]; exact h
  finishBox s b c d h := by
    have : (s.finishBox b c d).req.notices = s.req.notices := by
      unfold State.finishBox State.completion State.attentionTest State.latchPage
      simp only []
      repeat' split
      all_goals simp only [State.attend, State.nextSerial]
    unfold State.noticesOk; rw [this]; exact h
  takeBox _ _ _ h := h
  pin _ _ _ _ h := h
  unpin _ _ h := h
  bar _ _ _ _ h := h
  unbar _ _ h := h

/-- The notice queue keeps its bound through the end of an event. -/
theorem State.noticesOk_finish {s : State} (h : s.noticesOk) : s.finish.noticesOk := noticesOk_closed.finish h

/-! ## The box collections (R171) -/

/-- The invariant in terms of the three lists. -/
def boxSets (backlog lent taken : List Box) : Prop := (backlog ++ lent ++ taken).Nodup

theorem boxSets_iff {x y z : List Box} :
    boxSets x y z ↔ x.Nodup ∧ y.Nodup ∧ z.Nodup ∧ (∀ b ∈ x, b ∉ y ∧ b ∉ z) ∧ (∀ b ∈ y, b ∉ z) := by
  unfold boxSets
  simp only [List.nodup_append, List.mem_append]
  constructor
  · rintro ⟨⟨hx, hy, hxy⟩, hz, h⟩
    exact ⟨hx, hy, hz, fun b hb => ⟨fun hb' => hxy b hb b hb' rfl, fun hb' => h b (.inl hb) b hb' rfl⟩,
      fun b hb hb' => h b (.inr hb) b hb' rfl⟩
  · rintro ⟨hx, hy, hz, h1, h2⟩
    refine ⟨⟨hx, hy, ?_⟩, hz, ?_⟩
    · rintro a ha b hb rfl; exact (h1 a ha).1 hb
    · rintro a (ha | ha) b hb rfl
      · exact (h1 a ha).2 hb
      · exact h2 a ha hb

/-- Boxes that leave a collection leave the invariant standing. -/
theorem boxSets_sub {x y z x' y' z' : List Box} (h : boxSets x y z) (hx : x'.Sublist x) (hy : y'.Sublist y)
    (hz : z'.Sublist z) : boxSets x' y' z' := List.Nodup.sublist ((hx.append hy).append hz) h

theorem State.fillBox_boxes (s : State) (b : Box) (r : List Byte) (alarm : Bool) :
    (s.fillBox b r alarm).port.backlog = s.port.backlog ∧
    (s.fillBox b r alarm).port.lent = s.port.lent.filter (· ≠ b) ∧
    (s.fillBox b r alarm).port.taken = s.port.taken := by
  unfold State.fillBox State.completion State.attentionTest State.latchPage
  simp only []
  repeat' split
  all_goals exact ⟨by simp only [State.attend, State.nextSerial, Port.writeMap, Port.writeBody, Port.writePage],
    by simp only [State.attend, State.nextSerial, Port.writeMap, Port.writeBody, Port.writePage],
    by simp only [State.attend, State.nextSerial, Port.writeMap, Port.writeBody, Port.writePage]⟩

theorem State.finishBox_boxes (s : State) (b : Box) (c : OutcomeCode) (d : List Byte) :
    (s.finishBox b c d).port.backlog = s.port.backlog.filter (· ≠ b) ∧
    (s.finishBox b c d).port.lent = s.port.lent ∧
    (s.finishBox b c d).port.taken = s.port.taken.filter (· ≠ b) := by
  unfold State.finishBox State.completion State.attentionTest State.latchPage
  simp only []
  repeat' split
  all_goals exact ⟨by simp only [State.attend, State.nextSerial, Port.writeMap, Port.writeBody, Port.writePage],
    by simp only [State.attend, State.nextSerial, Port.writeMap, Port.writeBody, Port.writePage],
    by simp only [State.attend, State.nextSerial, Port.writeMap, Port.writeBody, Port.writePage]⟩

theorem boxesOk_closed : ScanClosed State.boxesOk where
  toQuietClosed :=
    { work := fun _ _ _ h => h
      radio := fun _ _ _ _ h => h
      claims := fun _ _ _ h => h
      granted := fun _ _ _ h => h
      places := fun _ _ _ h => h
      parents := fun _ _ _ h => h
      queued := fun _ _ _ h => h
      parked := fun _ _ _ _ h => h
      planner := fun _ _ _ _ _ _ h => h
      recv := fun _ _ _ h => h
      counters := fun _ _ h => h
      fill := fun s b r alarm _ h => by
        obtain ⟨h1, h2, h3⟩ := s.fillBox_boxes b r alarm
        unfold State.boxesOk
        rw [h1, h2, h3]
        exact boxSets_sub h (List.Sublist.refl _) List.filter_sublist (List.Sublist.refl _)
      overflow := fun _ _ h => h
      queueNotice := fun s n h => by unfold State.queueNotice; split <;> exact h }
  scanFlag _ _ h := h
  flow _ _ h := h
  serial _ h := h
  staged _ _ _ _ h := h
  removed _ _ h := h
  rewritten _ _ _ h := h
  sequence _ _ h := h
  record _ _ _ h := h
  trails _ _ _ h := h
  survey _ _ _ _ _ h := h
  settings _ _ _ h := h
  level s h := by
    have h1 : s.attentionLevel.port.backlog = s.port.backlog ∧ s.attentionLevel.port.lent = s.port.lent ∧
        s.attentionLevel.port.taken = s.port.taken := by
      unfold State.attentionLevel State.attentionTest State.latchPage
      simp only []
      repeat' split
      all_goals exact ⟨by simp only [State.attend, Port.writePage], by simp only [State.attend, Port.writePage],
        by simp only [State.attend, Port.writePage]⟩
    unfold State.boxesOk
    rw [h1.1, h1.2.1, h1.2.2]
    exact h
  finishBox s b c d h := by
    obtain ⟨h1, h2, h3⟩ := s.finishBox_boxes b c d
    unfold State.boxesOk
    rw [h1, h2, h3]
    exact boxSets_sub h List.filter_sublist (List.Sublist.refl _) List.filter_sublist
  takeBox s b hb h := by
    have hb : b ∈ s.port.backlog := by simpa using hb
    obtain ⟨h1, h2, h3, h4, h5⟩ := boxSets_iff.mp h
    refine boxSets_iff.mpr ⟨h1.filter _, h2, nodup_snoc h3 (h4 b hb).2, ?_, ?_⟩
    · intro x hx
      have hx := List.mem_filter.mp (show x ∈ s.port.backlog.filter (· ≠ b) from hx)
      refine ⟨(h4 x hx.1).1, ?_⟩
      intro hx'
      rcases List.mem_append.mp hx' with hx' | hx'
      · exact (h4 x hx.1).2 hx'
      · simp_all
    · intro x hx hx'
      rcases List.mem_append.mp hx' with hx' | hx'
      · exact h5 x hx hx'
      · simp at hx'; subst hx'; exact (h4 x hb).1 hx
  pin _ _ _ _ h := h
  unpin _ _ h := h
  bar _ _ _ _ h := h
  unbar _ _ h := h

/-- The box collections keep apart through the end of an event. -/
theorem State.boxesOk_finish {s : State} (h : s.boxesOk) : s.finish.boxesOk := boxesOk_closed.finish h

/-! ## The attention unit (R177) -/

/-- After its test the unit, if armed, shows no unmasked reason. -/
theorem State.attnOk_attentionTest (s : State) : s.attentionTest.attnOk := by
  unfold State.attentionTest
  split
  · unfold State.attnOk State.latchPage
    simp only []
    split <;> · simp only [State.attend, Attention.assert, Port.writePage]; intro h; cases h
  · rename_i h
    intro ha
    simpa [ha] using h

theorem State.attnOk_fillBox (s : State) (b : Box) (r : List Byte) (alarm : Bool) : (s.fillBox b r alarm).attnOk :=
  State.attnOk_attentionTest _

theorem State.attnOk_finishBox (s : State) (b : Box) (c : OutcomeCode) (d : List Byte) : (s.finishBox b c d).attnOk :=
  State.attnOk_attentionTest _

theorem attnOk_closed : ScanClosed State.attnOk where
  toQuietClosed :=
    { work := fun _ _ _ h => h
      radio := fun _ _ _ _ h => h
      claims := fun _ _ _ h => h
      granted := fun _ _ _ h => h
      places := fun _ _ _ h => h
      parents := fun _ _ _ h => h
      queued := fun _ _ _ h => h
      parked := fun _ _ _ _ h => h
      planner := fun _ _ _ _ _ _ h => h
      recv := fun _ _ _ h => h
      counters := fun _ _ h => h
      fill := fun s b r alarm _ _ => s.attnOk_fillBox b r alarm
      overflow := fun _ _ h => h
      queueNotice := fun s n h => by unfold State.queueNotice; split <;> exact h }
  scanFlag _ _ h := h
  flow _ _ h := h
  serial _ h := h
  staged _ _ _ _ h := h
  removed _ _ h := h
  rewritten _ _ _ h := h
  sequence _ _ h := h
  record _ _ _ h := h
  trails _ _ _ h := h
  survey _ _ _ _ _ h := h
  settings _ _ _ h := h
  level s _ := State.attnOk_attentionTest _
  finishBox s b c d _ := s.attnOk_finishBox b c d
  takeBox _ _ _ h := h
  pin _ _ _ _ h := h
  unpin _ _ h := h
  bar _ _ _ _ h := h
  unbar _ _ h := h

/-- The attention unit stands tested at the end of an event. -/
theorem State.attnOk_finish {s : State} (h : s.attnOk) : s.finish.attnOk := attnOk_closed.finish h

end Sys2Proof.Machine
end

