-- ==== Sys2Proof/Laws/Bounds.lean ====
section
/-! SUPPORT. The bounds of the neighbor table, the trail table, the timeline and the cells survive scans and follow-up work:
what each primitive change does to them, and the end of an event. -/

namespace Sys2Proof.Machine

/-! ## What a box write touches -/

/-- A completion changes the port alone. -/
theorem State.completion_port (s : State) (alarm : Bool) :
    ∃ p, s.completion alarm = { s with port := p } := by
  unfold State.completion State.attentionTest State.latchPage
  simp only []
  repeat' split
  all_goals exact ⟨_, rfl⟩

/-- A request completed changes the port and the completion serial alone. -/
theorem State.finishBox_port (s : State) (b : Box) (c : OutcomeCode) (d : List Byte) :
    ∃ p q, s.finishBox b c d = { s with port := p, req := q } := by
  unfold State.finishBox
  obtain ⟨p, hp⟩ := State.completion_port
    (State.nextSerial
      { s with port := { (s.port.writeBody b (s.outcomeRecord b c d)).writeMap b .done with
          backlog := ((s.port.writeBody b (s.outcomeRecord b c d)).writeMap b .done).backlog.filter (· ≠ b)
          taken := ((s.port.writeBody b (s.outcomeRecord b c d)).writeMap b .done).taken.filter (· ≠ b) } }) false
  exact ⟨p, _, hp⟩

/-- A lent box filled changes the port and the completion serial alone. -/
theorem State.fillBox_port (s : State) (b : Box) (r : List Byte) (alarm : Bool) :
    ∃ p q, s.fillBox b r alarm = { s with port := p, req := q } := by
  unfold State.fillBox
  obtain ⟨p, hp⟩ := State.completion_port
    (State.nextSerial
      { s with port := { (s.port.writeBody b r).writeMap b .filled with
          lent := ((s.port.writeBody b r).writeMap b .filled).lent.filter (· ≠ b) } }) alarm
  exact ⟨p, _, hp⟩

/-- A change of the trigger level changes the port alone. -/
theorem State.attentionLevel_port (s : State) : ∃ p, s.attentionLevel = { s with port := p } := by
  unfold State.attentionLevel State.attentionTest State.latchPage
  simp only []
  repeat' split
  all_goals exact ⟨_, rfl⟩

/-- A notice that joins the queue changes the port and the notices alone. -/
theorem State.queueNotice_port (s : State) (n : Notice) : ∃ p q, s.queueNotice n = { s with port := p, req := q } := by
  unfold State.queueNotice
  split <;> exact ⟨_, _, rfl⟩

/-! ## Insertion in order -/

theorem perm_insertBy {α : Type} (before : α → α → Bool) (x : α) (l : List α) :
    (insertBy before x l).Perm (x :: l) := by
  induction l with
  | nil => exact List.Perm.refl _
  | cons y ys ih =>
    unfold insertBy
    split
    · exact List.Perm.refl _
    · exact (ih.cons y).trans (List.Perm.swap x y ys)

/-- Insertion keeps an order for which every element but `x` stands before or after `x`. -/
theorem pairwise_insertBy {α : Type} (before : α → α → Bool) {R : α → α → Prop} (x : α) {l : List α}
    (htrans : ∀ y z, R x y → R y z → R x z) (hafter : ∀ y ∈ l, before x y = true → R x y)
    (hbefore : ∀ y ∈ l, before x y = false → R y x) (hl : l.Pairwise R) : (insertBy before x l).Pairwise R := by
  induction l with
  | nil => simp [insertBy]
  | cons y ys ih =>
    have hy := List.pairwise_cons.mp hl
    unfold insertBy
    split
    · rename_i h
      have hxy := hafter y List.mem_cons_self h
      refine List.pairwise_cons.mpr ⟨fun z hz => ?_, hl⟩
      rcases List.mem_cons.mp hz with rfl | hz
      · exact hxy
      · exact htrans y z hxy (hy.1 z hz)
    · rename_i h
      refine List.pairwise_cons.mpr ⟨fun z hz => ?_, ih (fun z hz => hafter z (List.mem_cons_of_mem _ hz))
        (fun z hz => hbefore z (List.mem_cons_of_mem _ hz)) hy.2⟩
      rcases (mem_insertBy _ _ _ _).mp hz with rfl | hz
      · exact hbefore y List.mem_cons_self (by simpa using h)
      · exact hy.1 z hz

/-! ## The neighbor table (R63) -/

theorem recordsOk_keep {s t : State} (h : KeepsPlaces s.nbr.places t.nbr.places) (hs : s.recordsOk) : t.recordsOk :=
  ⟨h.1.trans hs.1, hs.2.sublist h.2⟩

theorem keepsPlaces_refl (l : List (Option Neighbor)) : KeepsPlaces l l := ⟨rfl, List.Sublist.refl _⟩

/-- A record rewritten keeps the table's bounds. -/
theorem State.recordsOk_updNbr {s : State} (a : Addr) (f : Neighbor → Neighbor) (hf : ∀ r, (f r).address = r.address)
    (h : s.recordsOk) : (s.updNbr a f).recordsOk := by
  refine recordsOk_keep ⟨List.length_map _, ?_⟩ h
  have key := addresses_map (fun r => if r.address = a then f r else r) (fun r => by split <;> simp [hf]) s.nbr.places
  rw [State.updNbr, NbrUnit.update, key]

theorem recordsOk_closed : ScanClosed State.recordsOk where
  toQuietClosed :=
    { work := fun _ _ _ h => h
      radio := fun _ _ _ _ h => h
      claims := fun _ _ _ h => h
      granted := fun _ _ _ h => h
      places := fun _ _ hp h => recordsOk_keep hp h
      parents := fun _ _ _ h => h
      queued := fun _ _ _ h => h
      parked := fun _ _ _ _ h => h
      planner := fun _ _ _ _ _ _ h => h
      recv := fun _ _ _ h => h
      counters := fun _ _ h => h
      fill := fun s b r alarm _ h => by obtain ⟨p, q, e⟩ := s.fillBox_port b r alarm; rw [e]; exact h
      overflow := fun _ _ h => h
      queueNotice := fun s n h => by obtain ⟨p, q, e⟩ := s.queueNotice_port n; rw [e]; exact h }
  scanFlag _ _ h := h
  flow _ _ h := h
  serial _ h := h
  staged _ _ _ _ h := h
  removed _ _ h := h
  rewritten _ _ _ h := h
  sequence _ _ h := h
  record _ _ _ h := h
  trails _ _ _ h := h
  survey _ _ _ _ _ h := h
  settings _ _ _ h := h
  level s h := by obtain ⟨p, e⟩ := s.attentionLevel_port; rw [e]; exact h
  finishBox s b c d h := by obtain ⟨p, q, e⟩ := s.finishBox_port b c d; rw [e]; exact h
  takeBox _ _ _ h := h
  pin s a _ _ h := State.recordsOk_updNbr a _ (fun _ => rfl)
    (s := s.nbrWith fun u => { u with pins := u.pins ++ [a], bars := u.bars.filter (· ≠ a) }) h
  unpin s a h := State.recordsOk_updNbr a _ (fun _ => rfl)
    (s := s.nbrWith fun u => { u with pins := u.pins.filter (· ≠ a) }) h
  bar _ _ _ _ h := h
  unbar _ _ h := h

/-- The neighbor table keeps its bounds through the end of an event. -/
theorem State.recordsOk_finish {s : State} (h : s.recordsOk) : s.finish.recordsOk := recordsOk_closed.finish h

theorem putFirstFree_length (r : Neighbor) (l : List (Option Neighbor)) : (putFirstFree r l).length = l.length := by
  induction l with
  | nil => rfl
  | cons p ps ih => cases p <;> simp [putFirstFree, ih]

/-- A record put into a table that holds none of its address (R64). -/
theorem putFirstFree_nodup (r : Neighbor) {l : List (Option Neighbor)}
    (hr : ∀ x ∈ l.filterMap id, x.address ≠ r.address) (h : ((l.filterMap id).map (·.address)).Nodup) :
    (((putFirstFree r l).filterMap id).map (·.address)).Nodup := by
  have key : ∀ l : List (Option Neighbor), ((putFirstFree r l).filterMap id).Perm (r :: l.filterMap id) ∨
      putFirstFree r l = l := by
    intro l
    induction l with
    | nil => exact .inr rfl
    | cons p ps ih =>
      cases p with
      | none => exact .inl (List.Perm.refl _)
      | some x =>
        rcases ih with ih | ih
        · refine .inl ?_
          simp only [putFirstFree, List.filterMap_cons, id_eq]
          exact (ih.cons x).trans (List.Perm.swap r x _)
        · exact .inr (by simp only [putFirstFree, ih])
  rcases key l with hk | hk
  · refine (hk.map (·.address)).nodup_iff.mpr ?_
    simp only [List.map_cons, List.nodup_cons, List.mem_map, not_exists, not_and]
    exact ⟨hr, h⟩
  · rw [hk]; exact h

/-! ## The trail table (R94, R95) -/

theorem trailsOk_sublist {s t : State} (h : t.route.trails.Sublist s.route.trails) (hs : s.trailsOk) : t.trailsOk :=
  ⟨le_trans h.length_le hs.1, hs.2.sublist h⟩

theorem trailsOk_closed : ScanClosed State.trailsOk where
  toQuietClosed :=
    { work := fun _ _ _ h => h
      radio := fun _ _ _ _ h => h
      claims := fun _ _ _ h => h
      granted := fun _ _ _ h => h
      places := fun _ _ _ h => h
      parents := fun _ _ _ h => h
      queued := fun _ _ _ h => h
      parked := fun _ _ _ _ h => h
      planner := fun _ _ _ _ _ _ h => h
      recv := fun _ _ _ h => h
      counters := fun _ _ h => h
      fill := fun s b r alarm _ h => by obtain ⟨p, q, e⟩ := s.fillBox_port b r alarm; rw [e]; exact h
      overflow := fun _ _ h => h
      queueNotice := fun s n h => by obtain ⟨p, q, e⟩ := s.queueNotice_port n; rw [e]; exact h }
  scanFlag _ _ h := h
  flow _ _ h := h
  serial _ h := h
  staged _ _ _ _ h := h
  removed _ _ h := h
  rewritten _ _ _ h := h
  sequence _ _ h := h
  record _ _ _ h := h
  trails _ _ ht h := trailsOk_sublist ht h
  survey _ _ _ _ _ h := h
  settings _ _ _ h := h
  level s h := by obtain ⟨p, e⟩ := s.attentionLevel_port; rw [e]; exact h
  finishBox s b c d h := by obtain ⟨p, q, e⟩ := s.finishBox_port b c d; rw [e]; exact h
  takeBox _ _ _ h := h
  pin _ _ _ _ h := h
  unpin _ _ h := h
  bar _ _ _ _ h := h
  unbar _ _ h := h

/-- The trail table keeps its bounds through the end of an event. -/
theorem State.trailsOk_finish {s : State} (h : s.trailsOk) : s.finish.trailsOk := trailsOk_closed.finish h

theorem mem_of_bestBy {α : Type} {before : α → α → Bool} {l : List α} {x : α} (h : bestBy before l = some x) : x ∈ l := by
  induction l generalizing x with
  | nil => cases h
  | cons y ys ih =>
    unfold bestBy at h
    split at h
    · cases h; exact List.mem_cons_self
    · rename_i z hz
      split at h <;> cases h
      · exact List.mem_cons_of_mem _ (ih hz)
      · exact List.mem_cons_self

/-- A trail inserted among trails of other origins, fewer than 512, keeps the table's bounds. -/
theorem trailsOk_insert {s t : State} {e : Trail} {l : List Trail} (ht : t.route.trails = insertBy Trail.before e l)
    (hl : l.Sublist s.route.trails) (hlen : l.length < 512) (hne : ∀ x ∈ l, x.origin ≠ e.origin) (hs : s.trailsOk) :
    t.trailsOk := by
  unfold State.trailsOk
  rw [ht]
  refine ⟨by rw [(perm_insertBy _ _ _).length_eq]; exact hlen, ?_⟩
  refine pairwise_insertBy _ e (fun _ _ h h' => h.trans h') (fun y _ hb => by simpa [Trail.before] using hb)
    (fun y hy hb => ?_) (hs.2.sublist hl)
  have h1 := hne y hy
  have h2 : ¬e.origin.toNat < y.origin.toNat := by simpa [Trail.before] using hb
  have h3 : y.origin.toNat ≠ e.origin.toNat := fun h => h1 (BitVec.eq_of_toNat_eq h)
  omega

/-- A lesson keeps the trail table's bounds (R94, R95). -/
theorem State.trailsOk_learn {s : State} (o n : Addr) (h : s.trailsOk) :
    ({ s with route := s.route.learn o n s.now } : State).trailsOk := by
  have hfew : ∀ x ∈ s.route.trails, (s.route.trails.filter fun e => e.origin ≠ x.origin).length < 512 := fun x hx =>
    lt_of_lt_of_le (List.length_filter_lt_length_iff_exists.mpr ⟨x, hx, by simp⟩) h.1
  unfold Route.learn
  simp only []
  split
  · rename_i v hv
    have hm := List.mem_of_find?_eq_some hv
    have ho : v.origin = o := by simpa using List.find?_some hv
    refine trailsOk_insert rfl List.filter_sublist (ho ▸ hfew v hm) (fun x hx => ?_) h
    simpa using (List.mem_filter.mp hx).2
  · rename_i hv
    have hnone : ∀ x ∈ s.route.trails, x.origin ≠ o := by simpa [Route.trail] using hv
    split
    · rename_i hl
      exact trailsOk_insert rfl (List.Sublist.refl _) hl hnone h
    · split
      · rename_i v hb
        exact trailsOk_insert rfl List.filter_sublist (hfew v (mem_of_bestBy hb))
          (fun x hx => hnone x (List.mem_of_mem_filter hx)) h
      · exact ⟨by simp, by simp⟩

/-! ## The timeline (R155) -/

theorem claimsOk_kinds {s t : State} (h : (t.radio.timeline.map (·.kind)).Sublist (s.radio.timeline.map (·.kind)))
    (hs : s.claimsOk) : t.claimsOk := by
  obtain ⟨h1, h2, h3, h4, h5⟩ := hs
  exact ⟨le_trans (State.claimCount_le _ h) h1, le_trans (State.claimCount_le _ h) h2,
    le_trans (State.claimCount_le _ h) h3, le_trans (State.claimCount_le _ h) h4, le_trans (State.claimCount_le _ h) h5⟩

/-- How a granted claim counts. -/
theorem State.claimCount_insert (s : State) (c : Claim) (p : ClaimKind → Bool) :
    ({ s with radio := { s.radio with timeline := insertBy Claim.before c s.radio.timeline } } : State).claimCount p
      = (if p c.kind then 1 else 0) + s.claimCount p := by
  unfold State.claimCount
  rw [((perm_insertBy Claim.before c s.radio.timeline).filter _).length_eq, List.filter_cons]
  split <;> simp [Nat.add_comm]

/-- A claim granted where there is room keeps the timeline's bounds. -/
theorem State.claimsOk_granted {s : State} {c : Claim} (hr : s.hasRoom c.kind) (h : s.claimsOk) :
    ({ s with radio := { s.radio with timeline := insertBy Claim.before c s.radio.timeline } } : State).claimsOk := by
  obtain ⟨h1, h2, h3, h4, h5⟩ := h
  unfold State.claimsOk
  simp only [State.claimCount_insert]
  unfold State.hasRoom at hr
  cases hk : c.kind <;> simp only [hk] at hr <;> simp [ClaimKind.isTransmission, ClaimKind.isLong] at * <;> omega

theorem claimsOk_closed : ScanClosed State.claimsOk where
  toQuietClosed :=
    { work := fun _ _ _ h => h
      radio := fun _ _ _ _ h => h
      claims := fun _ _ hk h => claimsOk_kinds hk h
      granted := fun _ _ hr h => State.claimsOk_granted hr h
      places := fun _ _ _ h => h
      parents := fun _ _ _ h => h
      queued := fun _ _ _ h => h
      parked := fun _ _ _ _ h => h
      planner := fun _ _ _ _ _ _ h => h
      recv := fun _ _ _ h => h
      counters := fun _ _ h => h
      fill := fun s b r alarm _ h => by obtain ⟨p, q, e⟩ := s.fillBox_port b r alarm; rw [e]; exact h
      overflow := fun _ _ h => h
      queueNotice := fun s n h => by obtain ⟨p, q, e⟩ := s.queueNotice_port n; rw [e]; exact h }
  scanFlag _ _ h := h
  flow _ _ h := h
  serial _ h := h
  staged _ _ _ _ h := h
  removed _ _ h := h
  rewritten _ _ _ h := h
  sequence _ _ h := h
  record _ _ _ h := h
  trails _ _ _ h := h
  survey _ _ _ _ _ h := h
  settings _ _ _ h := h
  level s h := by obtain ⟨p, e⟩ := s.attentionLevel_port; rw [e]; exact h
  finishBox s b c d h := by obtain ⟨p, q, e⟩ := s.finishBox_port b c d; rw [e]; exact h
  takeBox _ _ _ h := h
  pin _ _ _ _ h := h
  unpin _ _ h := h
  bar _ _ _ _ h := h
  unbar _ _ h := h

/-- The timeline keeps its bounds through the end of an event. -/
theorem State.claimsOk_finish {s : State} (h : s.claimsOk) : s.finish.claimsOk := claimsOk_closed.finish h

/-! ## The cells (R101, R105, R112) -/

/-- The four lists of a store together. -/
def Store.cells (st : Store) : List FrameRec := st.queue ++ st.parked ++ st.staging ++ st.burst

/-- The order of the transmit queue and the parked list. -/
def inOrder (f g : FrameRec) : Prop := f.cls.code < g.cls.code ∨ (f.cls = g.cls ∧ f.serial < g.serial)

/-- The invariant in terms of the store. -/
theorem cellsOk_iff (s : State) : s.cellsOk ↔
    s.store.cells.length ≤ 64 ∧ s.store.staging.length ≤ 8 ∧ (s.store.cells.map (·.serial)).Nodup ∧
      (∀ f ∈ s.store.cells, f.serial < s.store.nextSerial) ∧ s.store.queue.Pairwise inOrder ∧
      s.store.parked.Pairwise inOrder := Iff.rfl

theorem cellsOk_store {s t : State} (h : t.store = s.store) (hs : s.cellsOk) : t.cellsOk := by
  rw [cellsOk_iff] at *
  rw [h]; exact hs

theorem FrameClass.code_inj {a b : FrameClass} (h : a.code = b.code) : a = b := by
  cases a <;> cases b <;> first | rfl | cases h

/-- A frame inserted among others of other serials keeps their order. -/
theorem pairwise_insertFrame {f : FrameRec} {l : List FrameRec} (hn : ∀ g ∈ l, g.serial ≠ f.serial)
    (h : l.Pairwise inOrder) : (insertBy FrameRec.before f l).Pairwise inOrder := by
  refine pairwise_insertBy _ f ?_ ?_ ?_ h
  · rintro y z (h1 | ⟨h1, h2⟩) (h3 | ⟨h3, h4⟩)
    · exact .inl (h1.trans h3)
    · exact .inl (h3 ▸ h1)
    · exact .inl (h1 ▸ h3)
    · exact .inr ⟨h1.trans h3, h2.trans h4⟩
  · intro y _ hb
    simp only [FrameRec.before, Bool.or_eq_true, Bool.and_eq_true, decide_eq_true_eq, beq_iff_eq] at hb
    rcases hb with hb | ⟨h1, h2⟩
    · exact .inl hb
    · exact .inr ⟨FrameClass.code_inj h1, h2⟩
  · intro y hy hb
    have hne := hn y hy
    simp only [FrameRec.before, Bool.or_eq_false_iff, Bool.and_eq_false_iff, decide_eq_false_iff_not, beq_eq_false_iff_ne,
      ne_eq] at hb
    rcases Nat.lt_or_ge y.cls.code f.cls.code with hlt | hge
    · exact .inl hlt
    · have he : f.cls.code = y.cls.code := by omega
      refine .inr ⟨(FrameClass.code_inj he).symm, ?_⟩
      rcases hb.2 with h | h
      · exact absurd he h
      · omega

theorem Store.remove_cells (st : Store) (n : Nat) : (st.remove n).cells = st.cells.filter fun f => f.serial ≠ n := by
  simp [Store.cells, Store.remove, withoutSerial]

theorem cellsOk_removed {s : State} (n : Nat) (h : s.cellsOk) : (s.storeWith fun st => st.remove n).cellsOk := by
  rw [cellsOk_iff] at *
  obtain ⟨h1, h2, h3, h4, h5, h6⟩ := h
  have hs : (s.store.remove n).cells.Sublist s.store.cells := by rw [Store.remove_cells]; exact List.filter_sublist
  exact ⟨le_trans hs.length_le h1, le_trans (List.length_filter_le _ _) h2, h3.sublist (hs.map _),
    fun f hf => h4 f (hs.subset hf), h5.filter _, h6.filter _⟩

/-- A frame that joins the store without its serial, where there is room, keeps the bounds. -/
theorem cellsOk_joined {s t : State} {f : FrameRec} (hc : t.store.cells.Perm (f :: s.store.cells))
    (hfree : s.store.cells.length < 64) (hlt : f.serial < s.store.nextSerial)
    (hnext : t.store.nextSerial = s.store.nextSerial) (hst : t.store.staging.length ≤ 8)
    (hn : ∀ g ∈ s.store.cells, g.serial ≠ f.serial) (hq : t.store.queue.Pairwise inOrder)
    (hp : t.store.parked.Pairwise inOrder) (h : s.cellsOk) : t.cellsOk := by
  rw [cellsOk_iff] at *
  obtain ⟨h1, h2, h3, h4, h5, h6⟩ := h
  refine ⟨by rw [hc.length_eq]; exact hfree, hst, ?_, fun g hg => ?_, hq, hp⟩
  · refine (hc.map (·.serial)).nodup_iff.mpr ?_
    simp only [List.map_cons, List.nodup_cons, List.mem_map, not_exists, not_and]
    exact ⟨hn, h3⟩
  · rw [hnext]
    rcases List.mem_cons.mp (hc.subset hg) with rfl | hg
    · exact hlt
    · exact h4 g hg

theorem Store.free_pos {st : Store} : 0 < st.free ↔ st.cells.length < 64 := by
  unfold Store.free Store.cells
  simp only [List.length_append]
  omega

/-- What a frame admitted to the store meets once its serial is out of the four lists. -/
theorem State.room_of_admits {s : State} {n : Nat} (ha : s.admits n) (h : s.cellsOk) :
    (s.store.remove n).cells.length < 64 ∧ n < s.store.nextSerial := by
  obtain ⟨h1, -, -, h4, -, -⟩ := (cellsOk_iff s).mp h
  rcases ha with ⟨g, hg, rfl⟩ | ⟨hlt, hf⟩
  · refine ⟨lt_of_lt_of_le ?_ h1, h4 g hg⟩
    rw [Store.remove_cells]
    exact List.length_filter_lt_length_iff_exists.mpr ⟨g, hg, by simp⟩
  · refine ⟨lt_of_le_of_lt ?_ (Store.free_pos.mp hf), hlt⟩
    rw [Store.remove_cells]
    exact List.length_filter_le _ _

theorem Store.mem_remove_ne {st : Store} {n : Nat} {g : FrameRec} (hg : g ∈ (st.remove n).cells) : g.serial ≠ n := by
  rw [Store.remove_cells] at hg
  simpa using (List.mem_filter.mp hg).2

theorem cellsOk_queued {s : State} (f : FrameRec) (ha : s.admits f.serial) (h : s.cellsOk) :
    (s.storeWith fun st => st.toQueue f).cellsOk := by
  have hr := State.room_of_admits ha h
  have h' := cellsOk_removed f.serial h
  obtain ⟨-, h2, -, -, h5, h6⟩ := (cellsOk_iff _).mp h'
  have hne : ∀ g ∈ (s.store.remove f.serial).cells, g.serial ≠ f.serial := fun g hg => Store.mem_remove_ne hg
  refine cellsOk_joined (s := s.storeWith fun st => st.remove f.serial) (f := { f with deadline := none }) ?_ hr.1 hr.2 rfl
    h2 hne (pairwise_insertFrame (fun g hg => hne g ?_) h5) h6 h'
  · simp only [Store.cells, State.storeWith, Store.toQueue]
    exact (((perm_insertBy _ _ _).append_right _).append_right _).append_right _
  · simp only [Store.cells, List.mem_append]
    exact .inl (.inl (.inl hg))

theorem cellsOk_parked {s : State} (f : FrameRec) (d : Tick) (ha : s.admits f.serial) (h : s.cellsOk) :
    (s.storeWith fun st => st.toParked f d).cellsOk := by
  have hr := State.room_of_admits ha h
  have h' := cellsOk_removed f.serial h
  obtain ⟨-, h2, -, -, h5, h6⟩ := (cellsOk_iff _).mp h'
  have hne : ∀ g ∈ (s.store.remove f.serial).cells, g.serial ≠ f.serial := fun g hg => Store.mem_remove_ne hg
  refine cellsOk_joined (s := s.storeWith fun st => st.remove f.serial) (f := { f with deadline := some d }) ?_ hr.1 hr.2 rfl
    h2 hne h5 (pairwise_insertFrame (fun g hg => hne g ?_) h6) h'
  · simp only [Store.cells, State.storeWith, Store.toParked]
    exact ((((perm_insertBy _ _ _).append_left _).trans List.perm_middle).append_right _).append_right _
  · simp only [Store.cells, List.mem_append]
    exact .inl (.inl (.inr hg))

theorem cellsOk_serial {s : State} (h : s.cellsOk) : s.takeSerial.cellsOk := by
  obtain ⟨h1, h2, h3, h4, h5, h6⟩ := (cellsOk_iff s).mp h
  exact (cellsOk_iff _).mpr ⟨h1, h2, h3, fun f hf => Nat.lt_succ_of_lt (h4 f hf), h5, h6⟩

theorem cellsOk_staged {s : State} (f : FrameRec) (hl : s.store.staging.length < 8) (hf : 0 < s.store.free)
    (h : s.cellsOk) :
    (s.takeSerial.storeWith fun st =>
      { st with staging := st.staging ++ [{ f with serial := s.store.nextSerial }] }).cellsOk := by
  obtain ⟨-, h2, -, h4, h5, h6⟩ := (cellsOk_iff s).mp h
  refine cellsOk_joined (s := s.takeSerial) (f := { f with serial := s.store.nextSerial }) ?_ (Store.free_pos.mp hf)
    (Nat.lt_succ_self _) rfl ?_ (fun g hg => Nat.ne_of_lt (h4 g hg)) h5 h6 (cellsOk_serial h)
  · simp only [Store.cells, State.storeWith, State.takeSerial, List.append_assoc, List.singleton_append]
    exact (((List.perm_middle.append_left _).trans List.perm_middle).append_left _).trans List.perm_middle
  · simp only [State.storeWith, State.takeSerial, List.length_append, List.length_singleton]; omega

theorem cellsOk_rewritten {s : State} (f : FrameRec → FrameRec) (hf : ∀ g, (f g).serial = g.serial ∧ (f g).cls = g.cls)
    (h : s.cellsOk) : (s.storeWith fun st => st.mapWaiting f).cellsOk := by
  obtain ⟨h1, h2, h3, h4, h5, h6⟩ := (cellsOk_iff s).mp h
  have hs : ((s.store.mapWaiting f).cells.map (·.serial)) = s.store.cells.map (·.serial) := by
    have : ∀ l : List FrameRec, (l.map f).map (·.serial) = l.map (·.serial) := fun l => by
      rw [List.map_map]; exact List.map_congr_left fun g _ => (hf g).1
    simp only [Store.cells, Store.mapWaiting, List.map_append, this]
  have ho : ∀ l : List FrameRec, l.Pairwise inOrder → (l.map f).Pairwise inOrder := fun l hl => by
    refine List.pairwise_map.mpr (hl.imp fun {a b} hab => ?_)
    unfold inOrder at *
    rw [(hf a).1, (hf a).2, (hf b).1, (hf b).2]; exact hab
  refine (cellsOk_iff _).mpr ⟨?_, h2, by show ((s.store.mapWaiting f).cells.map _).Nodup; rw [hs]; exact h3, ?_,
    ho _ h5, ho _ h6⟩
  · have := congrArg List.length hs
    simp only [List.length_map] at this
    show (s.store.mapWaiting f).cells.length ≤ 64
    omega
  · intro g hg
    have : g.serial ∈ (s.store.mapWaiting f).cells.map (·.serial) := List.mem_map_of_mem hg
    rw [hs] at this
    obtain ⟨x, hx, he⟩ := List.mem_map.mp this
    exact he ▸ h4 x hx

theorem cellsOk_closed : ScanClosed State.cellsOk where
  toQuietClosed :=
    { work := fun _ _ _ h => h
      radio := fun _ _ _ _ h => h
      claims := fun _ _ _ h => h
      granted := fun _ _ _ h => h
      places := fun _ _ _ h => h
      parents := fun _ _ _ h => h
      queued := fun _ f ha h => cellsOk_queued f ha h
      parked := fun _ f d ha h => cellsOk_parked f d ha h
      planner := fun _ _ _ _ _ _ h => h
      recv := fun _ _ _ h => h
      counters := fun _ _ h => h
      fill := fun s b r alarm _ h => by obtain ⟨p, q, e⟩ := s.fillBox_port b r alarm; rw [e]; exact h
      overflow := fun _ _ h => h
      queueNotice := fun s n h => by obtain ⟨p, q, e⟩ := s.queueNotice_port n; rw [e]; exact h }
  scanFlag _ _ h := h
  flow _ _ h := h
  serial _ h := cellsOk_serial h
  staged _ f hl hf h := cellsOk_staged f hl hf h
  removed _ n h := cellsOk_removed n h
  rewritten _ f hf h := cellsOk_rewritten f hf h
  sequence _ _ h := h
  record _ _ _ h := h
  trails _ _ _ h := h
  survey _ _ _ _ _ h := h
  settings _ _ _ h := h
  level s h := by obtain ⟨p, e⟩ := s.attentionLevel_port; rw [e]; exact h
  finishBox s b c d h := by obtain ⟨p, q, e⟩ := s.finishBox_port b c d; rw [e]; exact h
  takeBox _ _ _ h := h
  pin _ _ _ _ h := h
  unpin _ _ h := h
  bar _ _ _ _ h := h
  unbar _ _ h := h

/-- The cells keep their bounds through the end of an event. -/
theorem State.cellsOk_finish {s : State} (h : s.cellsOk) : s.finish.cellsOk := cellsOk_closed.finish h

end Sys2Proof.Machine
end

