-- ==== Sys2Proof/Tests/Slice0.lean ====
section
/-! SUPPORT. The author's tests: ill-formed commands refused, the port's bytes read, the manual's worked cases, and for
every statement with hypotheses a concrete state and operands that meet them (`witness_<statement>`). -/

namespace Sys2Proof.Tests

open Sys2Proof.Machine

/-- A command's answer is a next state with a property. -/
def nextIs (o : Host.Outcome State Fault Refusal) (p : State → Bool) : Bool :=
  match o with
  | .next s => p s
  | _ => false

/-- An instant given in whole ticks. -/
def tick (n : Nat) : Sixteenth := BitVec.ofNat 36 (16 * n)

/-! ## WellFormed: each check refuses its ill-formed term -/

theorem test_wf_refuses_instruction_code : (Instr.unknownInstruction 0 0x50 0).wf = false := by decide

theorem test_wf_refuses_empty_frame :
    (Instr.ownListenFrameEnd 0 { bytes := [], capture := 0, channel := 0, signal := 0 }).wf = false := by decide

theorem test_wf_refuses_long_frame :
    (Instr.takingFrameEnd 0 { bytes := List.replicate 111 0, capture := 0, channel := 0, signal := 0 }).wf = false := by
  decide

theorem test_wf_refuses_future_capture :
    (Instr.continuingFrameEnd 0 { bytes := [0], capture := 1, channel := 0, signal := 0 }).wf = false := by decide

theorem test_wf_refuses_segment_frame :
    (Instr.listenSegmentEnd 0 (some { bytes := [], capture := 0, channel := 0, signal := 0 })).wf = false := by decide

theorem test_wf_refuses_refresh_frame :
    (Instr.refreshListenEnd 0 (some { bytes := [], capture := 0, channel := 0, signal := 0 })).wf = false := by decide

theorem test_wf_refuses_reserved_address : (Instr.refreshListenOpen 0 0xFF00).wf = false := by decide

theorem test_wf_admits_longest_frame :
    (Instr.takingFrameEnd 0 { bytes := List.replicate 110 0, capture := 0, channel := 0, signal := 0 }).wf = true := by
  decide

/-! ## Decode: the port's transactions, byte by byte from the code tables of 12_formats.md, section 12.4 -/

theorem test_decode_identify : decodePort 7 [0x50, 0, 0, 0] = some (.identify 7 3) := by decide
theorem test_decode_read_address_low_byte_first :
    decodePort 7 [0x51, 0x80, 0x00, 0, 0] = some (.read 7 (some 0x0080) 2) := by decide
theorem test_decode_write : decodePort 7 [0x52, 0x03, 0x01, 0xAA] = some (.write 7 (some 0x0103) [0xAA]) := by decide
theorem test_decode_status : decodePort 7 [0x5A, 0] = some (.status 7 1) := by decide
theorem test_decode_rearm_and_latch : decodePort 7 [0x5E] = some (.rearm 7) ∧ decodePort 7 [0x5F] = some (.latch 7) := by
  decide
theorem test_decode_control :
    [0x01, 0x02, 0x03, 0x04, 0x05, 0x1A, 0x06].map (fun c => decodePort 7 [0x5C, c])
      = [some (.run 7), some (.stop 7), some (.clearFault 7), some (.reset 7), some (.clearFlags 7),
          some (.setAttentionMask 7 0xA), none] := by decide
theorem test_decode_unknown : decodePort 7 [0x00, 1] = some (.unknownInstruction 7 0x00 1) := by decide
theorem test_decode_short_read : decodePort 7 [0x51, 0x80] = none := by decide
theorem test_table_words_spell_nothing : decodeTableWord 8 0x50 = none := by decide

/-! ## Worked cases of the manual -/

set_option maxRecDepth 100000 in
/-- R10: the nine characters "123456789" give 0x29B1. -/
theorem test_crc_reference : crc16 [0x31, 0x32, 0x33, 0x34, 0x35, 0x36, 0x37, 0x38, 0x39] = 0x29B1 := by decide

/-- R8: the airtime table. -/
theorem test_airtime_table : [15, 34, 54, 78, 110, 13, 26].map airtime = [32, 55, 80, 110, 150, 29, 45] := by decide

/-- 02_beats_beacons_and_channels.md, "Worked case: the beat channel". -/
theorem test_beat_channel :
    beatChannel 0x0123 0xFFFF 0 1050112 = 10 ∧ beatChannel 0x0123 0xFFFF 0 1054208 = 4 ∧
      beatChannel 0x0123 0xFFBF 0 1054208 = 1 := by decide

/-- The tracker of 03_neighbor_timing.md, "Worked case: one beacon sample". -/
def sampleTracker : Tracker :=
  { anchor := some (984576, 80000000), drift := 300, state := .locked, prevLocked := false, slow := true, inLock := 7
    outliers := 0, lastSample := some 0, lapseAge := 0, lockLoss := 0 }

theorem test_tracker_sample :
    sampleTracker.sample {} .beacon 1050112 81048627 9 =
      ({ sampleTracker with anchor := some (1050112, 81048599), drift := 364, inLock := 0, lastSample := some 9 },
        .accepted) := by decide

/-- The same case with the capture at 81,048,800: an outlier that loses lock. -/
theorem test_tracker_outlier :
    sampleTracker.sample {} .beacon 1050112 81048800 9 =
      ({ sampleTracker with
          anchor := some (1050112, 81048610), drift := 540, state := .acquire, slow := false, inLock := 0, outliers := 1
          lastSample := some 9, lockLoss := 1 }, .accepted) := by decide

/-- The record of 03_neighbor_timing.md, "Worked case: planning the next rendezvous". -/
def plannedNeighbor : Neighbor :=
  { address := 0x0123, active := true
    tracker := { sampleTracker with anchor := some (1050112, 81048599), drift := 364 }
    schedule := some { exponent := 12, phase := 1536, halfWindow := 32, beaconExponent := 17, beaconChannel := 0
                       mask := 0xFFFF, epoch := 0, pending := none }
    stale := false, cost := 0, parent := 0, poisoned := false, hold := none, grant := 4, q := 2048, updates := 0
    untried := true, signal := -60, lastTried := none, admission := 0, pinned := false }

theorem test_next_rendezvous :
    plannedNeighbor.tracker.remoteNow 83144455 = some 1181100 ∧
      plannedNeighbor.nextRendezvous 83144455 none = some 1185280 ∧
      plannedNeighbor.tracker.predict 1185280 = some 83211334 ∧ plannedNeighbor.tracker.guardAt 1185280 = 116 ∧
      guardLimit 32 = 496 ∧ plannedNeighbor.channelAt 1185280 = 7 := by decide

/-- 04_the_neighbor_table.md, "Worked case: a new link settles": Q after the first ten outcomes. -/
theorem test_link_settles :
    ([(true, 0), (false, 1), (true, 2), (true, 3), (true, 4), (true, 5), (false, 6), (true, 7), (false, 8), (true, 8)].foldl
        (fun (l : List Nat) o => qStep (l.headD 2048) o.2 o.1 :: l) []).reverse
      = [2559, 1920, 2463, 2871, 3177, 3406, 2555, 2940, 2757, 2840] := by decide

theorem test_link_cost : [2048, 2559, 1920, 4095, 255].map linkCost = [32, 25, 34, 16, 256] := by decide

/-- 05_parents_path_cost_and_trails.md, "Worked case: ranking three candidates": A stays first at 69 against 54, and gives
way to B once its cost is 102. -/
theorem test_parents_ranked :
    chooseParents 24 [⟨1, 69⟩, ⟨2, 70⟩, ⟨3, 92⟩] none = [⟨1, 69⟩, ⟨2, 70⟩, ⟨3, 92⟩] ∧
      chooseParents 24 [⟨1, 69⟩, ⟨2, 54⟩, ⟨3, 92⟩] (some 1) = [⟨1, 69⟩, ⟨2, 54⟩, ⟨3, 92⟩] ∧
      chooseParents 24 [⟨1, 102⟩, ⟨2, 54⟩, ⟨3, 92⟩] (some 1) = [⟨2, 54⟩, ⟨3, 92⟩, ⟨1, 102⟩] := by decide

/-- R14: t = 499,712 and a capture at 7,995,429 give +37. -/
theorem test_timing_error : timingError 7995429 499712 = 37 := by decide

/-- R177: a timeout of 50 ms is 1,638 ticks. -/
theorem test_report_timeout : reportTicks 50 = 1638 := by decide

/-- 10_the_exchange_memory_and_attention.md, "Worked sequence: attention over a busy moment", from 2,000 to 2,500. -/
theorem test_alarm_mark_outlives_rearm :
    let a : Attention := { armed := false, reasons := { timeout := true, urgent := true }, count := 1, alarmMark := true }
    (a.rearmed 4).reasons = { urgent := true } ∧ (a.rearmed 4).unmasked = true ∧
      (a.rearmed 4).assert.alarmMark = false := by decide

/-! ## Small states -/

/-- A node with address 0x0123, HALTED, its radio free. -/
def halted : State := { State.reset with radio := {}, req := { settings := { ownAddress := 0x0123 } } }

/-- The node in an engine state. -/
def engine (e : EngineState) : State := { halted with radio := { engine := e } }

/-- The node RUNNING. -/
def running : State := engine .running

/-- An operation of a purpose over a window, on channel 4. -/
def op (k : OpKind) (p : Purpose) (start stop : Tick) : Operation :=
  { kind := k, purpose := p, channel := 4, start := start, stop := stop, start16 := ofTick start, bytes := []
    started := none, due := stop, cut := false }

/-- RUNNING with an operation outstanding. -/
def busy (o : Operation) : State := { running with radio := { engine := .running, op := some o } }

/-- A LISTEN cut short. -/
def shut (o : Operation) : Operation := { o with cut := true }

/-- RUNNING with a cut LISTEN outstanding and an operation that waits for its report (R152). -/
def waitingFor (o w : Operation) : State := { running with radio := { engine := .running, op := some o, waiting := some w } }

/-- A reception of an operation that began at its start. -/
def receiving (o : Operation) : Operation := { o with started := some o.start, due := o.start + 150 }

/-- A WRITE open at an address, with one box's map byte written. -/
def writing (n : BitVec 15) (maps : List Box) : State :=
  { halted with port := { txn := some (.writing n maps maps) } }

/-- A READ open at an address. -/
def reading (a : BitVec 15) : State := { halted with port := { txn := some (.reading a) } }

/-- Box 0 posted with a body, in the backlog. -/
def posted (body : List Byte) : State :=
  { halted with port := { mem := Memory.writeRun (Memory.write [] 0 1) 0x100 body, backlog := [0] } }

/-- A frame received at tick 100. -/
def frame (bytes : List Byte) : RxFrame := { bytes := bytes, capture := tick 100, channel := 4, signal := 0xC4 }

/-- An uplink frame of the own node, posted in box 0. -/
def ownFrame : FrameRec :=
  { origin := 0x0123, destination := 0xFFFE, sequence := 0, cls := .control, hopLimit := 15, payload := [0x11]
    binding := .uplink, total := 0, hops := 0, lastFail := none, backoff := none, deadline := none
    source := .originated 0, serial := 0 }

/-- A second frame of the same queue. -/
def nextFrame : FrameRec := { ownFrame with sequence := 1, serial := 1 }

/-- A third frame, posted in box 1. -/
def otherFrame : FrameRec := { ownFrame with sequence := 2, serial := 2, source := .originated 1 }

/-- A plan toward 0x0456 that starts at tick 1000 on channel 4. -/
def plan : Plan :=
  { target := 0x0456, instant := 2000, start := tick 1000, channel := 4, cls := .control, winStart := 1000
    winStop := 1073, evicted := false }

/-- A neighbor's record, LOCKED and heard at tick 900, whose beats of 512 ticks fall on multiples of 512. -/
def lamp : Neighbor :=
  { plannedNeighbor with
    address := 0x0456
    tracker := { sampleTracker with anchor := some (1024, tick 900), drift := 0, lastSample := some 900 }
    schedule := some { exponent := 9, phase := 0, halfWindow := 32, beaconExponent := 17, beaconChannel := 0
                       mask := 0xFFFF, epoch := 0, pending := none } }

/-- RUNNING with that neighbor, its first parent. -/
def related : State :=
  { running with
    nbr := { places := some lamp :: List.replicate 47 none }
    route := { parents := [{ address := 0x0456, cost := 40 }], ownU := 40 } }

/-- A DATA addressed to the node by 0x0456, for the gateway. -/
def data : DataFrame :=
  { cls := .control, more := true, transmitter := 0x0456, nextHop := 0x0123, origin := 0x0456, destination := 0xFFFE
    sequence := 9, hopLimit := 5, payload := [0x11] }

/-- The ACK of the DATA of sequence 0 from 0x0456. -/
def ack (k : AckKind) : AckFrame :=
  { kind := k, transmitter := 0x0456, addressee := 0x0123, sequence := 0, timingError := 0, flow := .go, grant := 4
    exponent := 9, epoch := 0 }

/-- A beacon of 0x0456. -/
def beacon : BeaconFrame :=
  { transmitter := 0x0456, timestamp := 0, number := 0, exponent := 9, beaconExponent := 17, phase := 0, halfWindow := 32
    channel := 0, cost := 0, parent := 0, flow := .go, grant := 4, mask := 0xFFFF, epoch := 0, pendingMask := 0
    applyNumber := 0 }

/-- The own-listen claim of beat 1000. -/
def listenClaim : Claim :=
  { kind := .ownListen, start := 968, stop := some 1032, channel := 4, owner := 0, instant := 1000 }

/-- The refresh claim of 0x0456. -/
def refreshClaim : Claim :=
  { kind := .refreshListen, start := 80, stop := some 120, channel := 0, owner := 0x0456, instant := 2048 }

/-- The beacon claim of the beacon instant 131,072. -/
def beaconClaim : Claim :=
  { kind := .ownBeacon, start := 131072, stop := some 131117, channel := 0, owner := 0, instant := 131072 }

def boundFrame : FrameRec := { ownFrame with binding := .bound 0x0456 }

/-! ## Hypotheses met: the queue, the port, the attention unit -/

theorem witness_StepRunsFrontCommand :
    ({ halted with pending := [.latch 0] } : State).pending = .latch 0 :: [] ∧ halted.pending = [] := by decide

theorem witness_EveryCommandAnswers : (Instr.latch 5).time = some 5 ∧ (Instr.reset 5).time = some 5 := by decide

/-- Every invariant holds before a LATCH that steps. -/
theorem witness_StepKeepsInvariants :
    let s : State := { halted with pending := [.latch 0] }
    s.memOk ∧ s.recentOk ∧ s.listsOk ∧ s.noticesOk ∧ s.boxesOk ∧ s.attnOk ∧ ∃ s', step s = .next s' :=
  ⟨⟨rfl, fun _ h => nomatch h⟩, ⟨by decide, by decide⟩, ⟨by decide, by decide, by decide, by decide⟩,
    by unfold State.noticesOk; decide, by unfold State.boxesOk; decide, fun _ => rfl, _, rfl⟩

/-- A record, two trails, five claims, and cells in three of the lists stand within their bounds. -/
theorem witness_StepKeepsBounds :
    let s : State := { related with
      radio := { engine := .running, timeline := [refreshClaim, listenClaim, beaconClaim, plan.claim, ⟨.census, 0, none, 0, 0, 0, false⟩] }
      route := { trails := [⟨3, 0x0456, 0⟩, ⟨9, 0x0456, 5⟩] }
      store := { queue := [ownFrame, nextFrame], parked := [{ boundFrame with serial := 2, deadline := some 7 }]
                 staging := [{ ownFrame with serial := 3 }], nextSerial := 4 }
      pending := [.latch 0] }
    s.recordsOk ∧ s.trailsOk ∧ s.claimsOk ∧ s.cellsOk ∧ ∃ s', step s = .next s' := by
  refine ⟨⟨by decide, by decide⟩, ⟨by decide, by decide⟩, ⟨by decide, by decide, by decide, by decide, by decide⟩,
    ⟨by decide, by decide, by decide, by decide, by decide, by decide⟩, _, rfl⟩

theorem witness_NewInstructionEndsTransaction :
    (Instr.identify 3 2).opensTransaction = true ∧ (Instr.identify 3 2).time = some 3 ∧
      (reading 0x7FFF).port.txn = some (.reading 0x7FFF) ∧
      (∃ s1, exec (.readEndPageWrite 3) (reading 0x7FFF) = .next s1) ∧
      (writing 5 [4]).port.txn = some (.writing 5 [4] [4]) ∧ ∃ s1, exec (.writeEnd 3) (writing 5 [4]) = .next s1 :=
  ⟨rfl, rfl, rfl, ⟨_, rfl⟩, rfl, ⟨_, rfl⟩⟩

/-- IdentifyStatusUnknown, LatchWritesPage, RearmAndMaskChange, ClearFlagsClearsAll and the openings of READ and WRITE. -/
theorem witness_ClosedPort : halted.port.txn = none ∧ halted.memOk := ⟨rfl, rfl, fun _ h => nomatch h⟩

theorem witness_ReadTransaction :
    (reading 0x7FFF).port.txn = some (.reading 0x7FFF) ∧ (reading 0x7FFF).memOk := ⟨rfl, rfl, fun _ h => nomatch h⟩

/-- The regions of WriteTransaction at their ends: 0x007E, 0x007F, 0x00FF, 0x0100 and 0x7FFF. -/
theorem witness_WriteTransaction :
    (0x7E#15).toNat = (126 : Box).val ∧ (0x7F ≤ (0x7F#15).toNat ∧ (0x7F#15).toNat ≤ 0xFF) ∧
      (0x7F ≤ (0xFF#15).toNat ∧ (0xFF#15).toNat ≤ 0xFF) ∧
      (0x100 + 256 * (0 : Box).val ≤ (0x100#15).toNat ∧ (0x100#15).toNat ≤ 0x1FF + 256 * (0 : Box).val) ∧
      (0x100 + 256 * (126 : Box).val ≤ (0x7FFF#15).toNat ∧ (0x7FFF#15).toNat ≤ 0x1FF + 256 * (126 : Box).val) ∧
      (writing 0x7FFF []).port.txn = some (.writing 0x7FFF [] []) ∧
      ((0 : Box) ∉ halted.port.taken ∧ (0 : Box) ∉ halted.port.lent) ∧
      (0 : Box) ∈ ({ halted with port := { taken := [0] } } : State).port.taken := by decide

/-- A map byte written with a value, the box in no collection. -/
def mapped (v : Byte) : State := { halted with port := { mem := Memory.write [] 3 v, txn := some (.writing 4 [3] [3]) } }

/-- A request of every kind posted in box 3 by an open WRITE, in DISCOVERY. -/
def postedNow (body : List Byte) : State :=
  { mapped 1 with
    radio := { engine := .discovery }
    port := { (mapped 1).port with mem := Memory.writeRun (mapped 1).port.mem (bodyAddr 3) body } }

set_option maxRecDepth 100000 in
/-- An EMPTY, a POST and a LENT byte in one examination, an engine-owned one, requests, and what a lent box can take. -/
theorem witness_WriteEndExaminesMap :
    (mapped 0).port.txn = some (.writing 4 [3] [3]) ∧ (writing 4 []).port.txn = some (.writing 4 [] []) ∧
      ((mapped 0).store.staging = [] ∧ (mapped 0).req.notices = []) ∧
      ((List.finRange 127).filter fun b => ([126, 0, 3] : List Box).contains b) = [0, 3, 126] ∧
      ((List.finRange 127).filter fun b => ([3] : List Box).contains b) = [3] ∧
      ((mapped 1).port.taken.contains 3 || (mapped 1).port.lent.contains 3) = false ∧ (mapped 1).port.backlog = [] ∧
      Memory.read (mapped 1).port.mem 3 = 1 ∧ Memory.read (mapped 4).port.mem 3 = 4 ∧
      (3 : Box) ∈ ({ mapped 0 with port := { (mapped 0).port with taken := [3] } } : State).port.taken := by decide

set_option maxRecDepth 100000 in
theorem witness_WriteEndPosts :
    ([9] : List Byte).length = 1 ∧ requestKind ((postedNow [9]).port.body 3) = none ∧
      requestKind ((postedNow [3, 0, 0, 0, 3, 0, 1, 0, 0]).port.body 3) = some .query ∧
      [4, 5, 6, 7].map (fun k => requestKind ((postedNow [k, 0, 0, 0, 2, 0, 1, 0]).port.body 3))
        = [some .pin, some .unpin, some .bar, some .unbar] ∧
      (postedNow [6, 0, 0, 0, 2, 0, 1, 0]).nbr.find (word16 ((postedNow [6, 0, 0, 0, 2, 0, 1, 0]).port.body 3) 6) = none ∧
      requestKind ((postedNow [1, 0, 0, 0, 6, 0, 0xFE, 0xFF, 1, 0, 1, 7]).port.body 3) = some .send ∧
      (postedNow [9]).radio.engine ≠ .running := by decide

theorem witness_AttentionCountsAndTimes :
    let a : Attention := { count := 1, timer := .running 1638 }
    a.timer = .running 1638 ∧ 0 ≤ (tickOf (tick 1638) - 1638).toInt ∧ (tickOf (tick 1637) - 1638).toInt < 0 := by decide

/-! ## Hypotheses met: control commands, boxes, requests -/

theorem witness_RunCommandRows :
    (engine .discovery).radio.engine ≠ .halted ∧
      (State.reset.radio.engine = .halted ∧ State.reset.req.settings.ownAddress = 0 ∧ State.reset.port.txn = none) ∧
      (halted.radio.engine = .halted ∧ halted.req.settings.ownAddress ≠ 0 ∧ halted.radio.faultLatch = false) ∧
      halted.req.settings.beaconChannel = halted.sched.beaconChannel ∧
      halted.req.settings.beaconExponent = halted.sched.beaconExponent ∧ halted.port.backlog = [] ∧
      (let s : State := { halted with
         port := { lent := [5] }
         req := { settings := { ownAddress := 0x0123, beaconChannel := 3, noticeMask := 0x3F } } }
       s.req.settings.beaconChannel ≠ s.sched.beaconChannel ∧ s.req.settings.noticeMask.getLsbD 3 = true ∧
         s.port.lent = 5 :: [] ∧ halted.req.settings.noticeMask.getLsbD 3 = false) := by decide

theorem witness_StopCommandRows :
    halted.radio.engine = .halted ∧
      (running.radio.engine = .running ∧ running.radio.stopPending = false ∧ running.planner.tx = .idle ∧
        running.recv.holds = false ∧ running.radio.op = none ∧ running.port.backlog = []) ∧
      (let s : State := { running with planner := { state := .burst, tx := .sending } }
       s.planner.state = .burst ∧ s.planner.tx ≠ .idle) ∧
      (let s : State := { running with recv := { state := .turning } }
       s.recv.holds = true ∧ s.radio.op = none ∧ s.planner.state ≠ .burst) ∧
      running.radio.waiting = none ∧
      (busy (receiving (op .listen .segment 5 9))).radio.op.any (fun o => o.started ≠ none) = true ∧
      (op .listen (.refresh 4) 5 9).started = none ∧ (op .send .beaconSend 5 50).started = none ∧
      (let s : State := { running with
         store := { queue := [ownFrame], burst := [otherFrame], nextSerial := 3 }
         planner := { state := .frozen, plan := some plan } }
       s.memOk ∧ s.cellsOk ∧ s.planner.state = .frozen ∧ (1 : Box) ∉ s.port.lent ∧ otherFrame.source = .originated 1 ∧
         ∀ g ∈ s.store.queue ++ s.store.parked ++ s.store.burst, g.source = .originated 1 → g = otherFrame) := by
  unfold State.memOk State.cellsOk
  decide

/-- A stop pending, with a frame of box 0 queued and one of box 1 parked. -/
def stopDue : State :=
  { running with
    radio := { engine := .running, stopPending := true }
    store := { queue := [ownFrame], parked := [otherFrame], nextSerial := 3 }
    port := { mem := [(0, 2), (1, 2)], taken := [0, 1] } }

theorem witness_StopTakesEffectDropsFrames :
    stopDue.radio.stopPending = true ∧ stopDue.planner.tx = .idle ∧ stopDue.recv.state = .idle ∧
      stopDue.radio.op = none ∧ stopDue.port.backlog = [] ∧ stopDue.store.burst = [] ∧ stopDue.planner.state = .none ∧
      stopDue.memOk ∧ stopDue.store.queue ++ stopDue.store.parked = [ownFrame] ++ otherFrame :: [] ∧
      otherFrame.source = .originated 1 ∧ (∀ g ∈ [ownFrame] ++ [], g.source ≠ .originated 1) ∧
      (∀ g ∈ stopDue.store.queue ++ stopDue.store.parked, g.source ≠ .originated 2) := by
  unfold State.memOk
  decide

set_option maxRecDepth 100000 in
/-- R118: the queued frame's box reads DONE, STOPPED and serial 0, then the parked one's with serial 1. -/
theorem test_stop_completes_boxes_in_order :
    nextIs (exec (.stopTakesEffect (tick 100)) stopDue) (fun s =>
      let shown (b : Box) : List Byte := s.port.mem.read b.val :: [1, 4, 6, 7].map fun i => s.port.mem.read (bodyAddr b + i)
      s.port.taken.isEmpty && shown 0 == [3, 6, 0, 0, 15] && shown 1 == [3, 6, 1, 2, 15]) = true := by decide

theorem witness_ClearFaultRows :
    (engine .faulted).port.txn = none ∧ (engine .faulted).port.backlog = [] ∧
      (let s : State := { halted with radio := { faultLatch := true } }
       s.radio.engine = .halted ∧ s.radio.faultLatch = true) ∧ halted.radio.faultLatch = false := by decide

/-- A TAKEN and a lent box, and no posted one. -/
def owned : State := { halted with port := { mem := [(0, 2), (126, 4)], taken := [0], lent := [126] } }

theorem witness_ResetCommandKeepsMemory :
    owned.port.txn = none ∧ owned.memOk ∧ owned.boxesOk ∧ (∀ b : Box, Memory.read owned.port.mem b.val ≠ 0x01) ∧
      (0 : Box) ∈ owned.port.taken ∧ (126 : Box) ∈ owned.port.lent ∧
      ((1 : Box) ∉ owned.port.taken ∧ (1 : Box) ∉ owned.port.lent) ∧ ¬4 ≤ owned.port.taken.length ∧
      4 ≤ ([0, 1, 2, 3] : List Box).length :=
  ⟨rfl, ⟨rfl, fun _ h => nomatch h⟩, by unfold State.boxesOk; decide, by decide, by decide, by decide, by decide,
    by decide, by decide⟩

theorem witness_BoxesCompletedAndFilled :
    owned.memOk ∧ (List.replicate 250 (1 : Byte)).length ≤ 250 ∧ (List.replicate 256 (1 : Byte)).length ≤ 256 :=
  ⟨⟨rfl, fun _ h => nomatch h⟩, Nat.le_of_eq List.length_replicate, Nat.le_of_eq List.length_replicate⟩

theorem witness_NoticeRaisedAndServed :
    let s : State := { halted with req := { notices := List.replicate 8 { event := .supply .reserve, tick := 0 } } }
    halted.req.settings.noticeMask.getLsbD ((NoticeEvent.parent 0 1 2).code - 1) = true ∧
      halted.req.settings.noticeMask.getLsbD ((NoticeEvent.neighborIn 1 2).code - 1) = false ∧
      s.port.lent = [] ∧ s.req.notices.length = 8 ∧ halted.req.notices.length < 8 ∧ owned.port.lent = 126 :: [] ∧
      s.req.notices.head? = some { event := .supply .reserve, tick := 0 } ∧ owned.store.staging = [] := by decide

/-- A SEND to any gateway, a SET of the beat exponent and list requests, as their records read. -/
def sendRecord (cls n : Byte) : List Byte := [1, 0, 0, 0, 5 + n, 0, 0xFE, 0xFF, cls, 0, n, 0x11]
def setRecord (id : Byte) : List Byte := [2, 0, 0, 0, 4, 0, 1, id, 12, 0]
def listRecord (kind : Byte) (lo hi : Byte) : List Byte := [kind, 0, 0, 0, 2, 0, lo, hi]

set_option maxRecDepth 100000 in
theorem witness_BadRequestAndQuery :
    (0 : Box) ∈ (posted [9]).port.backlog ∧ (posted [9]).port.txn = none ∧
      requestKind ((posted [9]).port.body 0) = none ∧
      [0, 1, 6, 7].all (fun n =>
        requestKind ((posted [3, 0, 0, 0, 3, 0, n, 0, 0]).port.body 0) == some .query) = true := by decide

set_option maxRecDepth 100000 in
theorem witness_PinAndBarRequests :
    requestKind ((posted (listRecord 4 0x56 0x04)).port.body 0) = some .pin ∧
      requestKind ((posted (listRecord 5 0xFF 0xFE)).port.body 0) = some .unpin ∧
      requestKind ((posted (listRecord 6 0x00 0xFF)).port.body 0) = some .bar ∧
      requestKind ((posted (listRecord 7 0x01 0x00)).port.body 0) = some .unbar ∧
      (word16 ((posted (listRecord 5 0xFF 0xFE)).port.body 0) 6 = 0xFEFF) ∧
      (word16 ((posted (listRecord 6 0x00 0xFF)).port.body 0) 6 = 0xFF00) ∧
      (posted (listRecord 6 1 0)).port.backlog = [0] ∧ (posted (listRecord 6 1 0)).port.txn = none ∧
      (let f : FrameRec := { boundFrame with source := .originated 3 }
       let s : State := { posted (listRecord 6 0x56 0x04) with nbr := related.nbr, store := { queue := [f] } }
       s.nbr.find (word16 (s.port.body 0) 6) = some lamp ∧ s.port.lent = [] ∧ s.req.notices.length < 7 ∧
         s.store.queue ++ s.store.parked ++ s.store.burst = [f] ∧ f.source ≠ .originated 0) ∧
      (posted (listRecord 6 1 0)).nbr.find 1 = none ∧ (0x0456 : Addr) ∉ halted.nbr.pins ∧ halted.nbr.pins.length < 8 ∧
      ([1, 2, 3, 4, 5, 6, 7, 8] : List Addr).length = 8 := by decide

/-- Record `i` of a full table, the first pinned. -/
def crowdedRecord (active : Bool) (i : Nat) : Neighbor :=
  { lamp with address := BitVec.ofNat 16 (i + 10), active := active, pinned := i == 0 }

/-- A full table: one record at each place. -/
def crowded (active : Bool) : State :=
  { related with nbr := { places := (List.range 48).map (fun i => some (crowdedRecord active i)) } }

set_option maxRecDepth 100000 in
theorem witness_EvictionForgets :
    related.nbr.find 0x0456 = some lamp ∧ related.nbr.find 0x0457 = none ∧
      (let s : State := { related with planner := { state := .open, plan := some plan } }
       s.planner.plan = some plan ∧ plan.target = 0x0456 ∧ s.planner.state ≠ .burst) ∧
      (halted.req.settings.noticeMask.getLsbD 2 = false ∧ (0x3F : BitVec 6).getLsbD 2 = true) := by decide

/-- A scan after each frame dropped, with an empty backlog; a beacon of the own address, and one of a known neighbor. -/
theorem witness_Intake :
    related.port.backlog = [] ∧
      ({ beacon with transmitter := 0x0123 } : BeaconFrame).transmitter = related.req.settings.ownAddress ∧
      beacon.transmitter ≠ related.req.settings.ownAddress ∧ related.nbr.find beacon.transmitter ≠ none := by decide

set_option maxRecDepth 100000 in
/-- The three ways of a full table, at the bound of R65: a level 6 dB above the weakest, and one below that. -/
theorem witness_Admission :
    (none ∈ halted.nbr.places ∧ halted.nbr.find beacon.transmitter = none ∧
        halted.req.settings.admissionFloor ≤ (0xA1 : BitVec 8).toInt ∧
        (0xA0 : BitVec 8).toInt < halted.req.settings.admissionFloor) ∧
      (none ∉ (crowded true).nbr.places ∧ (crowded true).nbr.find beacon.transmitter = none ∧
        (∀ r ∈ (crowded true).nbr.records, ¬(r.pinned = false ∧ r.active = false)) ∧
        (∀ r ∈ (crowded true).nbr.records, (0xC9 : BitVec 8).toInt < r.signal + 6) ∧
        lamp.signal + 6 ≤ (0xCA : BitVec 8).toInt) ∧
      ∃ r ∈ (crowded false).nbr.records, r.pinned = false ∧ r.active = false := by decide

set_option maxRecDepth 100000 in
/-- What the record and the notices of an admission are stated for: two lent boxes, both codes enabled, no frame bound to
the victim, and beacons with values that agree, that do not, and with a pending mask ahead. -/
theorem witness_AdmittedRecord :
    let s : State := { crowded false with
      port := { mem := [(5, 4), (6, 4)], lent := [5, 6] }
      req := { settings := { ownAddress := 0x0123, noticeMask := 0x3F } } }
    s.memOk ∧ s.boxesOk ∧ s.port.lent = 5 :: 6 :: [] ∧ s.req.settings.noticeMask.getLsbD 1 = true ∧
      s.req.settings.noticeMask.getLsbD 2 = true ∧ s.store.queue ++ s.store.parked ++ s.store.burst = [] ∧
      (crowded false).port.lent = [] ∧ (crowded false).req.notices.length ≤ 6 ∧
      (crowded false).req.settings.noticeMask.getLsbD 2 = false ∧
      beacon.number = beacon.timestamp.toNat / 2 ^ beacon.beaconExponent % 256 ∧
      ({ beacon with number := 1 } : BeaconFrame).number ≠ beacon.timestamp.toNat / 2 ^ beacon.beaconExponent % 256 ∧
      (4 + 256 - beacon.number % 256) % 256 ≠ 0 ∧ 4 ≤ (dataChannels 0x001F 0).length := by
  unfold State.memOk State.boxesOk
  decide

set_option maxRecDepth 100000 in
theorem witness_SendTests :
    requestKind ((posted (sendRecord 1 1)).port.body 0) = some .send ∧
      (posted (sendRecord 1 1)).port.backlog = [0] ∧ (posted (sendRecord 1 1)).port.txn = none ∧
      (byteAt ((posted (sendRecord 3 1)).port.body 0) 8).toNat = 3 ∧
      word16 ((posted (sendRecord 1 1)).port.body 0) 6 = 0xFFFE ∧
      requestKind ((posted (sendRecord 1 96)).port.body 0) = some .send ∧
      requestKind ((posted (sendRecord 1 97)).port.body 0) = some .send := by decide

set_option maxRecDepth 100000 in
/-- SendTests and SendTaken in DISCOVERY, with room and, for the waiting SEND, with 4 free cells. -/
theorem witness_SendTaken :
    let s : State := { posted (sendRecord 1 1) with radio := { engine := .discovery } }
    s.port.backlog = [0] ∧ s.port.mem.wf = true ∧ s.port.snapshot = none ∧ (0 : Box) ∉ s.port.lent ∧
      s.radio.stopPending = false ∧ s.radio.engine = .discovery ∧
      s.store.free = 64 ∧ s.req.settings.gateway = false ∧
      ({ queue := List.replicate 60 ownFrame } : Store).free = 4 ∧
      ({ queue := List.replicate 64 ownFrame } : Store).free = 0 := by decide

set_option maxRecDepth 100000 in
/-- A list of 32 pairs, with a pair it holds and one it does not; and SENDs in RUNNING toward a neighbor that may be sent
to, one that is barred, LAPSED, stale or held, and upward without a parent and with one. -/
theorem witness_SendPlaced :
    (let l : List (Addr × Byte) := (List.range 32).map fun i => (7, BitVec.ofNat 8 i)
     l.length = 32 ∧ l.Nodup ∧ (7, 0) ∈ l ∧ (8, 0) ∉ l) ∧
      (∃ c, lamp.schedule = some c ∧ c.pending = none ∧ c.exponent < c.beaconExponent ∧
        lamp.tracker.guardAt 2048 ≤ 16 * c.halfWindow - 16 ∧ lamp.nextRendezvous (tick 1500) none = some 2048) ∧
      (lamp.tracker.state ≠ .lapsed ∧ lamp.stale = false ∧ lamp.hold = none ∧ related.nbr.find 0x0456 = some lamp ∧
        (related.nbr.records.all fun x => x = lamp) = true ∧ (0x0456 : Addr) ∉ related.nbr.bars) ∧
      (({ lamp with hold := some 1501 } : Neighbor).hold = some 1501 ∧ (tickOf (tick 1500) - 1501).toInt < 0 ∧
        FrameClass.control ≠ .alarm ∧ ({ lamp with stale := true } : Neighbor).stale = true) ∧
      related.nbr.find 0x0999 = none ∧ related.store = {} ∧ related.radio.engine = .running ∧
      running.route.parents = [] ∧ related.route.parents = { address := 0x0456, cost := 40 } :: [] := by
  refine ⟨by decide, ⟨_, rfl, rfl, by decide, by decide, by decide⟩, ?_, ?_, ?_, ?_, ?_, ?_, ?_⟩ <;> decide

set_option maxRecDepth 100000 in
/-- R104, R106: a SEND in RUNNING joins the queue where its parent may be sent to, and parks for 10 s without one. -/
theorem test_send_placed :
    let posting (s : State) : State := { s with port := (posted (sendRecord 1 1)).port }
    nextIs (exec (.send (tick 1500) 0) (posting related)) (fun s => s.store.queue.length == 1 && s.store.parked.isEmpty)
        = true ∧
      nextIs (exec (.send (tick 1500) 0) (posting running)) (fun s =>
        s.store.queue.isEmpty && s.store.parked.map (·.deadline) == [some (1500 + 327680)]) = true := by decide

set_option maxRecDepth 100000 in
theorem witness_SetRefusedOrApplied :
    requestKind ((posted (setRecord 0x10)).port.body 0) = some .set ∧ (posted (setRecord 0x10)).port.mem.wf = true ∧
      (0 : Box) ∉ (posted (setRecord 0x10)).port.lent ∧ (posted (setRecord 0x10)).port.backlog = [0] ∧
      (posted (setRecord 0x10)).setFailure (setPairs ((posted (setRecord 0x10)).port.body 0)) = none ∧
      halted.setFailure [] = some (.badreq, []) ∧
      (halted.setFailure (List.replicate 33 { id := 0x10, value := 12 })).isSome = true ∧
      paramForm 0x04 = none ∧ running.radio.engine ≠ .halted ∧ paramForm 0x01 ≠ none := by decide

set_option maxRecDepth 100000 in
/-- One SET for each of the last five tests of R183, failing at the last pair that it names, and a clamped one. -/
theorem witness_SetTests :
    halted.setFailure [⟨0x10, 12⟩, ⟨0x01, 0xFF00⟩] = some (.badvalue, [1]) ∧
      halted.setFailure [⟨0x14, 0x001E⟩, ⟨0x13, 1⟩] = some (.badvalue, [0]) ∧
      ({ halted with req := { settings := { halted.req.settings with channelMask := 0x001E } } } : State).setFailure
        [⟨0x10, 12⟩, ⟨0x13, 1⟩] = some (.badvalue, [1]) ∧
      halted.setFailure [⟨0x54, 20⟩, ⟨0x55, 20⟩] = some (.badvalue, [1]) ∧
      halted.setFailure [⟨0x03, 8⟩, ⟨0x11, 8⟩] = some (.wrongState, [0]) ∧
      ({ running with sched := { running.sched with phase := 1 } } : State).setFailure [⟨0x10, 9⟩]
        = some (.wrongState, [0]) ∧
      halted.clampedIndices [⟨0x70, 5⟩, ⟨0x70, 4⟩, ⟨0x10, 17⟩, ⟨0x14, 0xFFFE⟩, ⟨0x15, 1⟩] = [0, 2, 4] := by decide

theorem witness_SupplyDebounced :
    let r : DebounceRun := { high := false, start := 0, due := 65536 }
    (tickOf (tick 65535) - r.due).toInt < 0 ∧ 0 ≤ (tickOf (tick 65536) - r.due).toInt ∧
      (let there : State := { (running.enter (tick 65536)) with sched := { supplyMode := .reserve } }
       there.exponentInUse ≠ running.exponentInUse ∧ running.recv.state ≠ .listening ∧ running.recv.state ≠ .receiving ∧
         (running.radio.op.isNone ∧ running.radio.waiting.isNone) ∧ running.store.queue = [] ∧ running.store.burst = [] ∧
         running.req.settings.noticeMask.getLsbD 4 = true ∧ (0x2F : BitVec 6).getLsbD 4 = false ∧
         running.port.lent = [] ∧ owned.port.lent = 126 :: []) ∧
      ({ running with req := { settings := { beatExponent := 16 } }, sched := { supplyMode := .reserve } } : State).exponentInUse
        = ({ running with req := { settings := { beatExponent := 16 } } } : State).exponentInUse := by decide

/-- With nothing on the timeline nothing stands against the claim placed afresh. -/
theorem witness_replaced : running.followsFree 65536 (65536 + 32 - 1) := fun _ _ _ h => nomatch h

set_option maxRecDepth 100000 in
/-- 02_beats_beacons_and_channels.md, "Worked sequence: a lighting circuit goes dark": at 40,165,536 the own listen moves
from 40,166,912 to 40,175,104, and the notice is raised. -/
theorem test_supply_replaces_listen :
    let s : State := { running with
      sched := { phase := 3, supplyHigh := false, debounce := some { high := false, start := 40100000, due := 40165536 } }
      radio := { engine := .running, timeline := [{ listenClaim with start := 40166880, stop := some 40166944, instant := 40166912 }] } }
    nextIs (exec (.supplyDebounceEnd (tick 40165536)) s) (fun s =>
      s.radio.timeline.map (·.instant) == [40175104] && s.req.notices.map (·.event) == [.supply .reserve]) = true := by
  decide

/-! ## Hypotheses met: the receiver -/

/-- RUNNING with one claim. -/
def claimed (c : Claim) : State := { running with radio := { engine := .running, timeline := [c] } }

theorem witness_OwnListenOpens :
    (running.enter (tick 968)).dueOwnListen = none ∧
      (((claimed listenClaim).enter (tick 968)).dueOwnListen = some listenClaim ∧ 0 ≤ (1032 - tickOf (tick 968)).toInt) ∧
      (((claimed listenClaim).enter (tick 1032)).dueOwnListen = some listenClaim ∧ 0 ≤ (1032 - tickOf (tick 1032)).toInt) ∧
      (((claimed listenClaim).enter (tick 1033)).dueOwnListen = some listenClaim ∧ (1032 - tickOf (tick 1033)).toInt < 0) ∧
      ((claimed listenClaim).radio.op = none ∧ (claimed listenClaim).planner.tx = .idle ∧
        (claimed listenClaim).recv.holds = false) ∧
      (let s : State := { claimed listenClaim with planner := { tx := .spacing } }
       (s.enter (tick 968)).dueOwnListen = some listenClaim ∧ s.planner.tx ≠ .idle ∧ s.radio.op = none) ∧
      (let q := op .listen .segment 50 968
       let s (q : Operation) : State := { busy q with radio := { (busy q).radio with timeline := [listenClaim] } }
       ((s q).enter (tick 968)).dueOwnListen = some listenClaim ∧ (s q).radio.op = some q ∧ (s q).radio.waiting = none ∧
         q.kind = .listen ∧ q.started = none ∧ q.cut = false ∧ q.purpose = .segment ∧ q.orphan = false ∧
         0 ≤ (tickOf (tick 968) - q.stop).toInt ∧ (tickOf (tick 968) - (op .listen .segment 50 969).stop).toInt < 0 ∧
         ((s (shut q)).enter (tick 968)).dueOwnListen = some listenClaim ∧ (shut q).cut = true) ∧
      (let q := op .listen (.refresh 0x0456) 900 1000
       let v : Claim := { refreshClaim with start := 900, stop := some 1000 }
       let s : State := { busy q with radio := { (busy q).radio with timeline := [v, listenClaim] } }
       (s.enter (tick 968)).dueOwnListen = some listenClaim ∧ s.radio.op = some q ∧ s.radio.waiting = none ∧
         q.kind = .listen ∧ q.started = none ∧ q.cut = false ∧ q.purpose = .refresh 0x0456 ∧ v ∈ s.radio.timeline ∧
         v.kind = .refreshListen ∧ v.owner = 0x0456 ∧ s.planner.tx = .idle ∧ s.recv.holds = false) ∧
      (running.exponentInUse < running.sched.beaconExponent ∧ running.sched.beaconExponent ≤ 23) := by decide

/-- Nothing stands against the own listen that follows, with one claim of this beat on the timeline. -/
theorem witness_followsFree (now after : Tick) : (claimed listenClaim).followsFree now after :=
  fun _ _ _ h => .inl (by simp only [claimed, List.mem_singleton] at h; exact h ▸ rfl)

/-- A frame start at both ends of a window, before and after it. -/
theorem witness_FrameStartHeard :
    running.radio.op = none ∧
      (let o := op .listen .ownListen 968 1032
       (busy o).radio.op = some o ∧ o.kind = .listen ∧ o.started = none ∧ o.cut = false ∧
         0 ≤ (tickOf (tick 968) - o.start).toInt ∧ 0 ≤ (o.stop - tickOf (tick 1032)).toInt ∧
         (tickOf (tick 967) - o.start).toInt < 0 ∧ (o.stop - tickOf (tick 1033)).toInt < 0 ∧
         (busy o).radio.timeline = []) := by decide

set_option maxRecDepth 100000 in
/-- A DATA with an answer, one over too late, and a frame that is no DATA; in a continuation, of its transmitter or not. -/
theorem witness_ReceivedFrameEnds :
    (let o := receiving (op .listen .ownListen 100 132)
     (busy o).radio.op = some o ∧ o.purpose = .ownListen ∧ o.cut = false ∧ o.started ≠ none ∧
       (tickOf (tick 132) - o.due).toInt ≤ 131 ∧ readFrame (frame data.bytes).bytes = some (.data data) ∧
       (((busy o).enter (tick 132)).answered.closeWindow.relay data (frame data.bytes)).1.isSome = true ∧
       (tickOf (tick 132) - tickOf (ackStart (frame data.bytes) data)).toInt ≤ 0 ∧
       0 < (tickOf (tick 139) - tickOf (ackStart (frame data.bytes) data)).toInt) ∧
      readFrame (frame (ack .go).bytes).bytes = some (.ack (ack .go)) ∧
      (let v : Rendezvous :=
        { beat := 96, firstCapture := tick 96, timingError := 0, transmitter := 0x0456, frames := 1, lastAnswer := .go
          lastMore := true }
       let o := receiving (op .listen .continuation 100 112)
       let s : State := { busy o with recv := { state := .receiving, record := some v } }
       s.radio.op = some o ∧ o.purpose = .continuation ∧ s.recv.record = some v ∧ v.transmitter = data.transmitter ∧
         ((s.enter (tick 132)).answered.relay data (frame data.bytes)).1.isSome = true) := by decide

set_option maxRecDepth 100000 in
theorem witness_RelayRefusals :
    (data.nextHop = running.req.settings.ownAddress ∧ data.transmitter ≠ running.req.settings.ownAddress ∧
        data.transmitter ∉ running.nbr.bars) ∧
      ({ data with nextHop := 0x0124 } : DataFrame).nextHop ≠ running.req.settings.ownAddress ∧
      running.resolve 0xFFFF (some 0x0456) = .invalid ∧ running.store.knows data.origin data.sequence = false ∧
      (let s : State := { running with req := { settings := { ownAddress := 0x0123, gateway := true } } }
       s.resolve 0x0789 (some 0x0456) = .noRoute ∧ s.resolve data.destination (some 0x0456) = .toHost) ∧
      related.resolve 0x0456 (some 0x0789) = .bound 0x0456 ∧ related.resolve 0xFFFE (some 0x0456) = .uplink ∧
      (({ queue := List.replicate 60 ownFrame } : Store).grants .control = false ∧
        ({ queue := List.replicate 59 ownFrame } : Store).grants .control = true) ∧
      (owned.memOk ∧ owned.port.lent = 126 :: []) ∧ related.port.lent = [] ∧
      (related.nbr.find data.transmitter = some lamp ∧ data.origin ≠ related.req.settings.ownAddress ∧
        related.route.parents.head?.map (·.address) = some data.transmitter) ∧
      (let stored : FrameRec := { ownFrame with binding := .bound 0x0999 }
       (((related.takeSignal 0x0456 0xC4).takeSerial.target stored).1 = none ∧ related.radio.engine = .running ∧
         related.nbr.find 0x0999 = none) ∧
       ((related.enter (tick 1000)).takeSerial.target boundFrame).1 = some 0x0456) ∧
      (related.route.trails.length < 512 ∧ 512 ≤ (List.replicate 512 (⟨3, 0x0999, 0⟩ : Trail)).length ∧
        (⟨3, 0x0999, 0⟩ : Trail).origin ≠ data.origin) := by
  refine ⟨?_, ?_, ?_, ?_, ?_, ?_, ?_, ?_, ⟨⟨rfl, fun _ h => nomatch h⟩, ?_⟩, ?_, ?_, ?_, ?_⟩ <;> decide

theorem witness_DuplicateAnswered :
    let s : State := { running with store := { recent := [(0x0456, 9)] } }
    data.nextHop = s.req.settings.ownAddress ∧ data.transmitter ≠ s.req.settings.ownAddress ∧
      data.transmitter ∉ s.nbr.bars ∧ s.resolve data.destination (some data.transmitter) ≠ .invalid ∧
      (data.origin, data.sequence) ∈ s.store.recent := by decide

theorem witness_AckSentAndContinued :
    (let a : BuiltAck := { bytes := [1], start := tick 50 }
     let s : State := { running with recv := { state := .turning, ack := some a } }
     s.recv.state = .turning ∧ s.recv.ack = some a ∧ (tickOf (tick 49) - tickOf a.start).toInt < 0 ∧
       0 ≤ (tickOf (tick 50) - tickOf a.start).toInt) ∧
      running.recv.ack = none ∧
      (let o := op .send .ackSend 50 79
       let v : Rendezvous :=
        { beat := 40, firstCapture := tick 40, timingError := 0, transmitter := 0x0456, frames := 3, lastAnswer := .go
          lastMore := true }
       (busy o).radio.op = some o ∧ o.purpose = .ackSend ∧ o.cut = false ∧ (tickOf (tick 79) - o.due).toInt ≤ 131 ∧
         (v.lastAnswer = .go ∧ v.lastMore = true ∧ v.frames < 4) ∧ (tickOf (tick 79) - o.stop).toInt ≤ 0 ∧
         0 < (tickOf (tick 80) - o.stop).toInt ∧ (busy o).recv.record = none) := by decide

theorem witness_EmptyWindowsEnd :
    (let o := shut (op .listen (.refresh 0x0456) 80 100)
     let w := op .listen .ownListen 100 164
     let b := op .send .burstData 100 150
     ((busy o).radio.op = some o ∧ (busy o).radio.waiting = none ∧ o.cut = true ∧
        (tickOf (tick 231) - o.due).toInt ≤ 131 ∧ o.purpose = .refresh 0x0456) ∧
      ((waitingFor o w).radio.op = some o ∧ (waitingFor o w).radio.waiting = some w ∧ w.kind = .listen ∧
        0 ≤ (w.stop - tickOf (tick 164)).toInt ∧ 0 < (tickOf (tick 165) - w.stop).toInt ∧ w.purpose = .ownListen) ∧
      (0 ≤ (b.start - tickOf (tick 100)).toInt ∧ 0 < (tickOf (tick 101) - b.start).toInt ∧ b.kind ≠ .listen ∧
        b.purpose = .burstData ∧ (waitingFor o b).planner.plan = none) ∧
      (op .send .beaconSend 100 145).purpose ≠ .burstData) ∧
      (let o := op .listen .continuation 79 91
       (busy o).radio.op = some o ∧ o.purpose = .continuation ∧ o.cut = false ∧ o.started = none ∧
         0 ≤ (tickOf (tick 91) - o.stop).toInt ∧ (tickOf (tick 222) - o.due).toInt ≤ 131) ∧
      (let o := op .listen .ownListen 968 1032
       let s : State := { busy o with radio := { (busy o).radio with timeline := [listenClaim] } }
       s.radio.op = some o ∧ o.purpose = .ownListen ∧ 0 ≤ (tickOf (tick 1032) - o.stop).toInt ∧
         s.req.settings.survey = true ∧ (s.radio.timeline.all fun x => x.kind = .ownListen) = true ∧
         0 ≤ (tickOf (tick 1032) - listenClaim.start).toInt) := by decide

/-! ## Hypotheses met: survey, mask, beacons -/

/-- RUNNING with a survey of channel 4. -/
def surveyed (b : SurveyBatch) (mask : Mask) : State :=
  { busy (op .sense .survey 100 100) with sched := { mask := mask, batches := [b] } }

theorem witness_SenseReportCounted :
    let o := op .sense .survey 100 100
    let s := surveyed { channel := 4, countdown := 1, tally := 9 } 0xFFFF
    s.radio.op = some o ∧ o.purpose = .survey ∧ o.cut = false ∧ (tickOf (tick 100) - o.due).toInt ≤ 131 ∧
      s.radio.timeline = [] ∧
      (claimed listenClaim).radio.timeline.find? (fun c =>
        c.kind = .ownListen && decide (0 ≤ (tickOf (tick 1032) - c.start).toInt)) = some listenClaim ∧
      s.req.settings.survey = true ∧ (s.sched.batches.find? fun b => b.channel = o.channel).isSome = true ∧
      2 ≤ (2 : Nat) ∧ (9 + (if s.req.settings.busyThreshold < (0xAC : BitVec 8).toInt then 1 else 0) : Nat) = 10 ∧
      (9 + (if s.req.settings.busyThreshold < (0xAB : BitVec 8).toInt then 1 else 0) : Nat) = 9 ∧
      s.sched.exclusions = [] ∧ (dataChannels (maskWithout s.sched.decided 4) 0).length = 14 ∧
      (dataChannels (maskWithout (surveyed { channel := 4, countdown := 1, tally := 9 } 0x001F).sched.decided 4) 0).length
        = 3 := by decide

theorem witness_ExclusionHoldEnds :
    let e : Exclusion := { channel := 4, holdEnd := some 100 }
    0 ≤ (tickOf (tick 100) - 100).toInt ∧ (tickOf (tick 99) - 100).toInt < 0 ∧ e.channel = (4 : Fin 16).val ∧
      halted.req.settings.channelMask.getLsbD 4 = true ∧ (0xFFEF : Mask).getLsbD 4 = false ∧
      bestBy Proposal.before [{ channel := 6, score := 11 }, { channel := 5, score := 11 }]
        = some { channel := 5, score := 11 } ∧
      4 ≤ (dataChannels (maskWithout 0xFFFF 5) 0).length ∧ (dataChannels (maskWithout 0x001F 1) 0).length < 4 ∧
      halted.sched.pendingMask = none ∧
      ({ halted with sched := { pendingMask := some (0xFFEF, 5) } } : State).sched.pendingMask = some (0xFFEF, 5) ∧
      halted.sched.beaconExponent ≤ 31 := by decide

theorem witness_OwnBeaconInstants :
    (131073 : Nat) % 2 ^ 17 ≠ 512 * running.sched.phase ∧ (tickOf (tick 131072)).toNat % 2 ^ 17 = 0 ∧
      running.radio.timeline.find? (fun c => c.kind = .ownBeacon) = none ∧
      ((claimed beaconClaim).radio.timeline.find? (fun c => c.kind = .ownBeacon) = some beaconClaim ∧
        beaconClaim.instant = tickOf (tick 131072) ∧ (claimed beaconClaim).radio.op = none ∧
        (claimed beaconClaim).planner.tx = .idle ∧ (claimed beaconClaim).recv.holds = false ∧
        (claimed beaconClaim).sched.pendingMask = none ∧ (claimed beaconClaim).radio.waiting = none) ∧
      (let q := shut (op .listen .segment 50 131072)
       (busy q).radio.op = some q ∧ q.kind = .listen ∧ q.started = none ∧ q.cut = true) ∧
      (let s : State := { running with sched := { pendingMask := some (0xFFEF, 1) } }
       s.sched.pendingMask = some (0xFFEF, (tickOf (tick 131072)).toNat / 2 ^ s.sched.beaconExponent % 256)) ∧
      (let s : State := { claimed beaconClaim with sched := { pendingMask := some (0xFFEF, 1) } }
       s.sched.pendingMask = some (0xFFEF, (tickOf (tick 131072)).toNat / 2 ^ s.sched.beaconExponent % 256) ∧
         s.radio.timeline.find? (fun c => c.kind = .ownBeacon) = some beaconClaim ∧ s.radio.op = none ∧
         s.radio.waiting = none) ∧
      (let s : State := { claimed beaconClaim with planner := { tx := .spacing } }
       s.planner.tx ≠ .idle ∧ s.radio.op = none ∧ s.radio.engine = .running ∧ s.radio.stopPending = false ∧
         s.radio.timeline.filter (fun x => !(x.kind = .ownBeacon)) = []) ∧
      (let q := op .listen .segment 131000 131500
       let r := op .listen (.refresh 0x0456) 131000 131500
       let s (q : Operation) : State := { busy q with radio := { (busy q).radio with timeline := [refreshClaim, beaconClaim] } }
       (s q).radio.timeline.find? (fun c => c.kind = .ownBeacon) = some beaconClaim ∧ (s q).radio.op = some q ∧
         (s q).radio.waiting = none ∧ (s q).planner.tx = .idle ∧ (s q).recv.holds = false ∧ q.kind = .listen ∧
         q.started = none ∧ q.cut = false ∧ q.purpose = .segment ∧ q.orphan = false ∧ r.purpose = .refresh 0x0456 ∧
         refreshClaim ∈ (s r).radio.timeline ∧ refreshClaim.kind = .refreshListen ∧ refreshClaim.owner = 0x0456) := by
  decide

set_option maxRecDepth 100000 in
/-- A request that shares one tick with a claim above it, one that takes a claim below it, one that cuts a segment; and the
losses of a listen opened or not. -/
theorem witness_BeaconSentPlacesNext :
    (let c : Claim := { kind := .otherTransmission, start := 1032, stop := some 1100, channel := 4, owner := 4, instant := 9 }
     let l : Claim := { listenClaim with start := 120, stop := some 184 }
     (c.kind.isLong = false ∧ listenClaim ∈ (claimed listenClaim).radio.timeline ∧ listenClaim.stop = some 1032 ∧
        0 ≤ ((1032 : Tick) - c.start).toInt ∧ 0 ≤ ((1100 : Tick) - listenClaim.start).toInt) ∧
      (refreshClaim.stop = some 120 ∧ 0 ≤ ((120 : Tick) - l.start).toInt ∧ 0 ≤ ((184 : Tick) - refreshClaim.start).toInt ∧
        refreshClaim.kind.isLong = false ∧ refreshClaim.hold (claimed refreshClaim) = false ∧
        (claimed refreshClaim).radio.timeline = [refreshClaim]) ∧ c.kind.isTransmission = true) ∧
      (let o := op .listen .segment 50 80
       let long : Claim := ⟨.census, 0, none, 0, 0, 0, false⟩
       let s : State := { busy o with radio := { (busy o).radio with timeline := [long] } }
       s.radio.timeline = [long] ∧ long.kind.isLong = true ∧ refreshClaim.kind.isLong = false ∧ s.radio.op = some o ∧
         o.kind = .listen ∧ o.purpose = .segment ∧ o.started = none ∧ o.cut = false ∧
         (({ refreshClaim with start := 79 } : Claim).start - o.stop).toInt < 0 ∧
         ¬(refreshClaim.start - o.stop).toInt < 0) ∧
      ((busy (op .listen .ownListen 968 1032)).radio.op = some (op .listen .ownListen 968 1032) ∧
        (busy (op .listen (.refresh 0x0456) 80 120)).radio.op = some (op .listen (.refresh 0x0456) 80 120) ∧
        refreshClaim.owner = 0x0456 ∧ (claimed refreshClaim).radio.op = none ∧
        0 ≤ ((1032 : Tick) - (op .listen .ownListen 968 1032).stop).toInt) ∧
      (let w := op .listen .ownListen 968 1032
       let q := shut (op .listen .segment 50 968)
       (waitingFor q w).radio.op = some q ∧ q.kind = .listen ∧ q.cut = true ∧ (waitingFor q w).radio.waiting = some w ∧
         w.kind = .listen ∧ w.purpose = .ownListen ∧ w.started = none ∧ w.cut = false) ∧
      (let o := op .send .beaconSend 131072 131117
       (busy o).radio.op = some o ∧ o.purpose = .beaconSend ∧ o.cut = false ∧
         (tickOf (tick 131248) - o.due).toInt ≤ 131 ∧ (busy o).radio.engine = .running ∧
         (busy o).radio.stopPending = false ∧ (busy o).radio.timeline = [] ∧
         ({ busy o with radio := { (busy o).radio with engine := .discovery } } : State).radio.engine ≠ .running) := by
  decide

/-! ## Hypotheses met: the planner and the sender -/

/-- The related node with one frame queued and an OPEN plan. -/
def planned : State := { related with store := { queue := [ownFrame] }, planner := { state := .open, plan := some plan } }

/-- The same with the plan in a state and the frames in its burst. -/
def inBurst (p : PlanState) (x : TxState) (fs : List FrameRec) : State :=
  { related with store := { burst := fs }, planner := { state := p, plan := some plan, tx := x, txNext := tick 1070 } }

/-- The related node with one frame bound to 0x0456 in its queue. -/
def queued : State := { related with now16 := tick 950, store := { queue := [boundFrame] } }

set_option maxRecDepth 100000 in
theorem witness_PlanFreezes :
    (planned.planner.state = .open ∧ planned.planner.plan = some plan) ∧
      (ofTick (tickOf (tick 967)) - (plan.start - 512)).toInt < 0 ∧
      0 ≤ (ofTick (tickOf (tick 968)) - (plan.start - 512)).toInt ∧
      (({ planned with nbr := halted.nbr } : State).enter (tick 968)).freezeTests plan
        = (false, ({ planned with nbr := halted.nbr } : State).enter (tick 968)) ∧
      (planned.enter (tick 968)).freezeTests plan = (true, planned.enter (tick 968)) ∧
      (planned.enter (tick 968)).buildBurst plan
        = ([ownFrame], { planned.enter (tick 968) with nbr := planned.nbr }) ∧
      planned.radio.op = none ∧ planned.radio.timeline = [] ∧ planned.store.burst = [] ∧
      (0x0456 : Addr) ∈ ({ planned with nbr := { planned.nbr with bars := [0x0456] } } : State).nbr.bars ∧
      (tickOf (tick 968) - 969).toInt < 0 ∧ ({ ownFrame with backoff := some 969 } : FrameRec).backoff = some 969 ∧
      (1 ≤ lamp.grant ∧ 1 ≤ planned.req.settings.burstLimit ∧ boundFrame.binding = .bound plan.target ∧
        boundFrame.backoff = none) ∧
      (let far : Neighbor := { lamp with tracker := { lamp.tracker with anchor := some (2000000, tick 900) } }
       let s : State := { planned with nbr := { planned.nbr with places := some far :: List.replicate 47 none } }
       s.nbr.find plan.target = some far ∧ (∀ x ∈ s.nbr.records, x.address = plan.target → x = far) ∧
         (far.schedule.all fun c => c.pending.isNone && decide (c.exponent < c.beaconExponent) &&
           decide (16 * c.halfWindow - 16 < far.tracker.guardAt plan.instant)) = true ∧
         far.tracker.state ≠ .lapsed ∧ far.stale = false) := by decide

set_option maxRecDepth 100000 in
/-- 0x0456 may be sent to at the plan's instant, and at its next rendezvous from tick 950. -/
theorem witness_openTo (c : Schedule) (h : lamp.schedule = some c) :
    ({ planned with store := { queue := [boundFrame] } } : State).openTo 0x0456 lamp c plan.instant ∧
      queued.openTo 0x0456 lamp c 1536 := by
  obtain rfl : _ = c := Option.some.inj h
  unfold State.openTo
  decide

set_option maxRecDepth 100000 in
/-- One eligible frame, its claim free or refused by an own listen that shares one tick with it. -/
theorem witness_planChosen :
    queued.radio.engine = .running ∧ queued.radio.stopPending = false ∧ queued.planner.state = .none ∧
      queued.planner.plan = none ∧ queued.planner.marks = [] ∧ queued.store.burst = [] ∧ boundFrame.backoff = none ∧
      lamp.nextRendezvous queued.now16 none = some 1536 ∧ lamp.tracker.predict 1536 = some (tick 1412) ∧
      queued.radio.timeline = [] ∧ 0 ≤ ((1412 : Tick) - 1412).toInt ∧
      listenClaim.kind.rank ≤ ClaimKind.rank .otherTransmission ∧
      ({ listenClaim with start := 1348, stop := some 1412 } : Claim).overlaps
        { kind := .otherTransmission, start := 1412, stop := some 1485, channel := 4, owner := 0x0456, instant := 1536 }
        = true ∧
      (let x : Candidate := { plan := plan, best := ownFrame }
       [({ x with best := nextFrame } : Candidate), { x with plan := { plan with start := tick 999 } },
          { x with plan := { plan with cls := .alarm } }].map (fun y => bestBy Candidate.before [x, y] == some y)
         = [false, true, true]) := by decide

/-- RUNNING with one claim, a standing proposal and one queued frame. -/
def tuned : State :=
  { queued with
    radio := (claimed listenClaim).radio
    sched := { proposals := [{ channel := 4, score := 12 }] } }

set_option maxRecDepth 100000 in
/-- What a SET calls for: nothing, survey and mask in their three ways, a review, the marks at both bounds, the trigger level
at its bound, a new own address, and another half-window. -/
theorem witness_SetCallsFor :
    let after (ps : List Pair) : Settings := tuned.setResult ps
    let old := tuned.req.settings
    tuned.work = {} ∧ after [⟨0x10, 12⟩] = old ∧ (after [⟨0x14, 0xFF0F⟩]).channelMask ≠ old.channelMask ∧
      (old.survey = true ∧ (after [⟨0x15, 0⟩]).survey = false) ∧
      (({ tuned with req := { settings := { old with survey := false } } } : State).setResult [⟨0x15, 1⟩]).survey = true ∧
      (after [⟨0x40, 9⟩]).hopPenalty ≠ old.hopPenalty ∧
      ({ queue := List.replicate 52 ownFrame } : Store).free ≤ old.holdMark ∧
      old.goMark ≤ ({ queue := List.replicate 44 ownFrame } : Store).free ∧
      ((after [⟨0x70, 2⟩]).triggerLevel ≠ old.triggerLevel ∧ (after [⟨0x70, 2⟩]).triggerLevel ≤ 2 ∧
        1 < (after [⟨0x70, 2⟩]).triggerLevel ∧ tuned.port.lent = []) ∧
      (after [⟨0x01, 0x0456⟩]).ownAddress ≠ old.ownAddress ∧
      (tuned.radio.engine = .running ∧ tuned.radio.stopPending = false ∧ tuned.recv.state = .idle ∧
        tuned.radio.op = none ∧ (after [⟨0x11, 64⟩]).halfWindow ≠ old.halfWindow ∧
        (after [⟨0x11, 64⟩]).ownAddress = old.ownAddress ∧
        (({ tuned with req := { settings := after [⟨0x11, 64⟩] } } : State).nextOwnListen (tuned.now + 64)).isSome = true ∧
        ∀ c ∈ tuned.radio.timeline, c.kind = .ownListen) := by decide

theorem witness_BurstDataSent :
    let s := inBurst .frozen .idle [ownFrame, nextFrame]
    let x := inBurst .burst .spacing [nextFrame]
    s.planner.plan = some plan ∧ s.store.burst = ownFrame :: [nextFrame] ∧ s.planner.state = .frozen ∧
      (tickOf (tick 999) - tickOf plan.start).toInt < 0 ∧ 0 ≤ (tickOf (tick 1000) - tickOf plan.start).toInt ∧
      s.radio.op = none ∧ s.radio.waiting = none ∧ s.planner.tx = .idle ∧ s.recv.holds = false ∧ s.radio.timeline = [] ∧
      (shut (op .listen .segment 50 1000)).cut = true ∧
      ({ s with recv := { state := .turning } } : State).recv.holds = true ∧
      (x.planner.plan = some plan ∧ x.store.burst = nextFrame :: [] ∧ x.planner.tx = .spacing ∧ plan.evicted = false ∧
        (tickOf (tick 1069) - tickOf x.planner.txNext).toInt < 0 ∧
        0 ≤ (tickOf (tick 1070) - tickOf x.planner.txNext).toInt) := by decide

set_option maxRecDepth 100000 in
theorem witness_SentDataAwaited :
    (let o := op .send .burstData 1000 1032
     let s : State := { busy o with planner := { txEnd := tick 1032 } }
     s.radio.op = some o ∧ o.cut = false ∧ o.purpose = .burstData ∧ (tickOf (tick 1032) - o.due).toInt ≤ 131 ∧
       (tickOf (tick 1032) - tickOf s.planner.txEnd).toInt ≤ 0 ∧
       0 < (tickOf (tick 1033) - tickOf s.planner.txEnd).toInt) ∧
      (let o := op .listen .ackWait 1032 1044
       let s : State := { inBurst .burst .awaiting [ownFrame, nextFrame] with radio := (busy o).radio }
       s.radio.op = some o ∧ o.purpose = .ackWait ∧ o.started = none ∧ o.cut = false ∧
         (tickOf (tick 1175) - o.due).toInt ≤ 131 ∧
         (tickOf (tick 1043) - o.stop).toInt < 0 ∧ 0 ≤ (tickOf (tick 1044) - o.stop).toInt ∧
         s.planner.plan = some plan ∧ plan.evicted = false ∧ s.store.burst = ownFrame :: [nextFrame] ∧
         nextFrame.serial ≠ ownFrame.serial ∧ s.nbr.find plan.target = some lamp ∧ lamp.schedule.isSome = true ∧
         ownFrame.total + 1 < s.req.settings.totalLimit) := by decide

set_option maxRecDepth 100000 in
/-- A GO and a HOLD that are accepted, one for another sequence that is not, and the last tick in time. -/
theorem witness_TakingFrameEnds :
    let o := receiving (op .listen .ackWait 100 112)
    let s : State := { inBurst .burst .taking [ownFrame, nextFrame] with radio := { engine := .running, op := some o } }
    s.radio.op = some o ∧ o.purpose = .ackWait ∧ o.cut = false ∧ o.started ≠ none ∧
      (tickOf (tick 129) - o.due).toInt ≤ 131 ∧ s.planner.plan = some plan ∧ s.planner.state = .burst ∧
      s.store.burst = ownFrame :: [nextFrame] ∧ readFrame (frame (ack .go).bytes).bytes = some (.ack (ack .go)) ∧
      readFrame (frame (ack .hold).bytes).bytes = some (.ack (ack .hold)) ∧
      ((ack .go).transmitter = plan.target ∧ (ack .go).addressee = s.req.settings.ownAddress ∧
        (ack .go).sequence = s.planner.txSequence) ∧
      ({ ack .go with sequence := 1 } : AckFrame).sequence ≠ s.planner.txSequence ∧ (ack .go).kind = .go ∧
      (ack .hold).kind ≠ .go ∧ plan.evicted = false ∧ nextFrame.serial ≠ ownFrame.serial ∧
      (tickOf (tick 135) - tickOf ((frame []).capture + 560)).toInt ≤ 0 ∧
      0 < (tickOf (tick 136) - tickOf ((frame []).capture + 560)).toInt ∧ s.port.backlog = [] ∧
      (s.store.queue ++ s.store.parked = [] ∧ s.nbr.find plan.target = some lamp ∧ lamp.active = true ∧
        (lamp.schedule.all fun c => c.pending.isNone && decide (c.phase < 2 ^ (ack .go).exponent)) = true ∧
        9 ≤ (ack .go).exponent ∧ ({ ack .go with exponent := 16 } : AckFrame).exponent ≤ 16) := by decide

/-- A burst under way within the bounds of its cells: an originated frame at its head, its box TAKEN and not lent. -/
def delivering : State :=
  { inBurst .burst .taking [ownFrame, { nextFrame with source := .relayed 0x0789 0xC4 3 }] with
    radio := { engine := .running, op := some (receiving (op .listen .ackWait 100 112)) }
    store := { burst := [ownFrame, { nextFrame with source := .relayed 0x0789 0xC4 3 }], nextSerial := 2 }
    port := { mem := [(0, 2)], taken := [0] } }

set_option maxRecDepth 100000 in
theorem witness_frameDisposed :
    delivering.cellsOk ∧ delivering.memOk ∧ delivering.port.backlog = [] ∧ plan.evicted = false ∧
      ownFrame.source = .originated 0 ∧ (0 : Box) ∉ delivering.port.lent ∧ boundFrame.binding = .bound 0x0456 ∧
      (∀ a, ownFrame.binding ≠ .bound a) ∧ readFrame (frame (ack .full).bytes).bytes = some (.ack (ack .full)) ∧
      readFrame (frame (ack .noroute).bytes).bytes = some (.ack (ack .noroute)) :=
  ⟨⟨by decide, by decide, by decide, by decide, by decide, by decide⟩, ⟨rfl, fun _ h => nomatch h⟩, rfl, rfl, rfl,
    by decide, rfl, (fun _ h => nomatch h), by decide, by decide⟩

set_option maxRecDepth 100000 in
/-- R111, R131, R182: a GO completes the SEND in box 0 FORWARDED, code 0x02, with sequence, hop limit 15, neighbor 0x0456 and
no failed attempt, and counts it. -/
theorem test_go_completes_send :
    nextIs (exec (.takingFrameEnd (tick 129) (frame (ack .go).bytes)) delivering) (fun s =>
      s.port.mem.read 0 == 0x03 && s.port.mem.readRun (bodyAddr 0 + 6) 5 == [0, 15, 0x56, 0x04, 0]
        && s.port.mem.read (bodyAddr 0 + 1) == 0x02 && s.port.counters.originatedSent == 1 && s.store.free == 63) = true := by
  decide

theorem witness_FailedFrameBacksOff :
    related.nbr.find plan.target = some lamp ∧ lamp.schedule.isSome = true ∧ plan.evicted = false ∧
      related.req.settings.totalLimit ≤ 7 + 1 ∧ 6 + 1 < related.req.settings.totalLimit := by decide

/-! ## Hypotheses met: listens, supervision, sweeps, expiries -/

set_option maxRecDepth 100000 in
theorem witness_RefreshListens :
    let o := op .listen (.refresh 0x0456) 80 120
    (claimed refreshClaim).refreshClaim 0x0456 = some refreshClaim ∧ refreshClaim.stop = some 120 ∧
      (tickOf (tick 79) - refreshClaim.start).toInt < 0 ∧ 0 ≤ (tickOf (tick 80) - refreshClaim.start).toInt ∧
      (claimed refreshClaim).radio.op = none ∧ (claimed refreshClaim).radio.waiting = none ∧
      (claimed refreshClaim).planner.tx = .idle ∧ (claimed refreshClaim).recv.holds = false ∧ 0 ≤ ((120 : Tick) - tickOf (tick 120)).toInt ∧
      ((120 : Tick) - tickOf (tick 121)).toInt < 0 ∧
      ({ busy o with radio := { (busy o).radio with timeline := [refreshClaim] } } : State).refreshClaim 0x0456
        = some refreshClaim ∧
      (o.purpose = .refresh 0x0456 ∧ o.cut = false ∧ o.started = none ∧ (receiving o).started ≠ none ∧
        0 ≤ (tickOf (tick 120) - o.stop).toInt ∧ (tickOf (tick 251) - o.due).toInt ≤ 131) ∧
      readFrame beacon.bytes = some (.beacon beacon) ∧ beacon.transmitter = 0x0456 ∧
      readFrame data.bytes = some (.data data) ∧
      (related.nbr.find beacon.transmitter = some lamp ∧ lamp.active = true ∧ 9 ≤ beacon.exponent ∧
        beacon.exponent ≤ 16 ∧ beacon.beaconExponent ≤ 20 ∧ 512 * beacon.phase < 2 ^ beacon.exponent ∧
        4 ≤ (dataChannels beacon.mask beacon.channel).length ∧
        beacon.timestamp.toNat % 2 ^ beacon.beaconExponent = 512 * beacon.phase ∧
        beacon.number = beacon.timestamp.toNat / 2 ^ beacon.beaconExponent % 256 ∧
        ¬9 ≤ ({ beacon with exponent := 8 } : BeaconFrame).exponent ∧ beacon.pendingMask = 0 ∧
        4 ≤ (dataChannels 0x001E beacon.channel).length ∧ (dataChannels 0x001F 1).length = 4 ∧
        (1 + 256 - beacon.number % 256) % 256 = 1) := by decide

/-- DISCOVERY with its claim and 10 ticks of listening left. -/
def discovering : State :=
  { halted with
    radio := { engine := .discovery, timeline := [⟨.discovery, 0, none, 0, 0, 0, false⟩] }
    sched := { long := some { discovery := true, span := 100, counted := 90, waiting := false } } }

theorem witness_ListenSegments :
    (discovering.sched.long = some { discovery := true, span := 100, counted := 90, waiting := false } ∧
        discovering.radio.op = none ∧ discovering.planner.tx = .idle ∧ discovering.recv.holds = false ∧
        (discovering.radio.timeline.any fun c => c.kind.isLong) = true ∧
        (discovering.radio.timeline.all fun c => c.kind.isLong) = true) ∧
      halted.sched.long = none ∧
      (let o := op .listen .segment 50 60
       (busy o).radio.op = some o ∧ o.purpose = .segment ∧ (tickOf (tick 60) - o.due).toInt ≤ 131 ∧ o.cut = false ∧ o.started = none ∧ 0 ≤ (tickOf (tick 60) - o.stop).toInt ∧
         (receiving o).started ≠ none ∧ o.orphan = false ∧ ({ o with orphan := true } : Operation).orphan = true) ∧
      readFrame [1, 2, 3] = none ∧ discovering.radio.stopPending = false := by decide

/-- R164, R37: with a stop pending the claim that a reception has held goes at its end, and no further segment opens. -/
theorem test_no_segment_while_stopping :
    let o := receiving (op .listen .segment 50 60)
    let s : State := { discovering with radio := { discovering.radio with stopPending := true, op := some o } }
    nextIs (exec (.listenSegmentEnd (tick 90) (some (frame [1, 2, 3]))) s) (fun s1 =>
      s1.radio.timeline.isEmpty && nextIs (exec (.listenSegmentStart (tick 91)) s1) fun s2 => s2.radio.op.isNone) = true := by
  decide

theorem witness_CensusAndDiscoveryTurns :
    (let l : LongListen := { discovery := false, span := 100, counted := 100, waiting := false }
     ({ running with sched := { long := some l } } : State).sched.long = some l ∧ l.span ≤ l.counted ∧
       running.radio.op = none) ∧
      (let o := op .listen .segment 50 150
       let reached (t : Tick) : Nat := 60 + (t - o.start).toInt.toNat
       (busy o).radio.op = some o ∧ (busy (receiving o)).radio.op = some (receiving o) ∧ o.kind = .listen ∧
         o.purpose = .segment ∧ o.cut = false ∧ o.orphan = false ∧ o.started = none ∧ (receiving o).started ≠ none ∧
         100 ≤ reached (tickOf (tick 90)) ∧ reached (tickOf (tick 89)) < 100) ∧
      (let l : LongListen := { discovery := true, span := 100, counted := 100, waiting := false }
       ({ discovering with sched := { long := some l } } : State).sched.long = some l ∧ l.span ≤ l.counted) ∧
      (discovering.radio.engine = .discovery ∧ discovering.radio.stopPending = false ∧ discovering.port.backlog = [] ∧
        (90 : Nat) < 100) ∧
      ((tickOf (tick 19660799) - State.reset.sched.censusDue).toInt < 0 ∧
        0 ≤ (tickOf (tick 19660800) - State.reset.sched.censusDue).toInt ∧ related.store.queue = [] ∧
        related.store.parked = [] ∧ related.nbr.records = [lamp]) := by decide

/-- Supervision at its boundary: 130 ticks after the due moment, and 131, of the operation or of a cut LISTEN that another waits
for. -/
theorem witness_FrontEndSupervised :
    let o := op .resetFrontEnd .resetFrontEnd 100 100
    let q := op .listen .segment 50 100
    halted.radio.op = none ∧ (busy o).radio.op = some o ∧ o.purpose = .resetFrontEnd ∧ o.cut = false ∧
      (tickOf (tick 231) - o.due).toInt ≤ 131 ∧ (busy o).sched.long.all (fun l => !l.waiting) = true ∧
      ({ discovery := true, span := 9, counted := 0, waiting := true } : LongListen).waiting = true ∧
      (tickOf (tick 230) - o.due).toInt < 131 ∧ 131 ≤ (tickOf (tick 231) - o.due).toInt ∧
      (busy o).radio.strike = false ∧ (busy o).radio.stopPending = false ∧
      ({ busy o with radio := { (busy o).radio with strike := true } } : State).radio.strike = true ∧
      (let w := op .send .burstData 100 150
       let s := waitingFor (shut q) w
       s.radio.op = some (shut q) ∧ (tickOf (tick 230) - (shut q).due).toInt < 131 ∧
         131 ≤ (tickOf (tick 231) - (shut q).due).toInt ∧ s.radio.serving = some w ∧ w.purpose = .burstData) ∧
      (let s : State := { busy o with radio := { (busy o).radio with strike := true, stopPending := true } }
       s.radio.strike = true ∧ s.radio.stopPending = true ∧ s.planner.tx = .idle ∧ s.recv.holds = false) ∧
      (q.purpose = .segment ∧ q.cut = false ∧ q.orphan = false ∧ 0 ≤ (tickOf (tick 231) - q.due).toInt) := by decide

set_option maxRecDepth 100000 in
/-- Who is served at a timeout, with a claim whose window has not begun; and a latch with a notice to raise. -/
theorem witness_FirstTimeouts :
    (let s (o : Operation) : State := { busy o with radio := { (busy o).radio with timeline := [listenClaim] } }
     let own := op .listen .ownListen 40 100
     (s own).radio.serving = some own ∧ (tickOf (tick 231) - listenClaim.start).toInt < 0 ∧
       131 ≤ (tickOf (tick 231) - own.due).toInt ∧ (s own).radio.strike = false ∧ (s own).radio.engine = .running ∧
       ([op .send .ackSend 40 100, op .listen .continuation 40 100, op .sense .survey 100 100,
         op .send .beaconSend 40 100, op .listen (.refresh 0x0456) 40 100, op .listen .segment 40 100].all fun o =>
           (s o).radio.serving == some o && decide (131 ≤ (tickOf (tick 231) - o.due).toInt)) = true ∧
       (s own).sched.beaconExponent ≤ 31) ∧
      (let s : State := { running with
         store := { burst := [ownFrame], nextSerial := 1 }
         planner := { state := .burst, plan := some plan, tx := .sending }
         radio := { engine := .running, op := some (op .send .burstData 40 100) } }
       s.cellsOk ∧ plan.evicted = false ∧ s.planner.plan = some plan) ∧
      (running.port.backlog = [] ∧ running.store.burst = [] ∧ running.planner.plan = none ∧
        running.req.settings.noticeMask.getLsbD 5 = true ∧ running.req.notices.length < 8 ∧ running.port.lent = [] ∧
        owned.memOk ∧ owned.port.lent = 126 :: []) := by
  unfold State.cellsOk State.memOk
  decide

set_option maxRecDepth 100000 in
/-- R153: an own listen that times out counts one missed beat. R154: the next timeout raises RADIO_FAULT with its kind. -/
theorem test_timeouts :
    let o := op .listen .ownListen 40 100
    nextIs (exec (.operationTimeout (tick 231)) (busy o)) (fun s =>
        s.port.counters.missedBeats == 1 && s.radio.strike && s.radio.op.any fun r => r.kind = .resetFrontEnd) = true ∧
      nextIs (exec (.operationTimeout (tick 231)) { busy o with radio := { (busy o).radio with strike := true } })
        (fun s => s.req.notices == [{ event := .radioFault .listen, tick := 231 }]) = true := by decide

/-- The record of a neighbor, pinned or not, heard at tick 20,000. -/
def kept : Neighbor := { lamp with pinned := true, tracker := { lamp.tracker with lastSample := some 20000 } }

/-- RUNNING with that record, its first parent and the next hop of two trails. -/
def keeping : State :=
  { related with
    now16 := tick 360000
    nbr := { related.nbr with places := some kept :: List.replicate 47 none }
    route := { related.route with trails := [⟨0x0500, 0x0456, 0⟩, ⟨0x0501, 0x0456, 1⟩] } }

set_option maxRecDepth 100000 in
/-- Sweeps of no record, of pinned ones, and of one that stays or goes. -/
theorem witness_NeighborSweepAges :
    (tickOf (tick 32767) - halted.nbr.nextSweep).toInt < 0 ∧ 0 ≤ (tickOf (tick 32768) - halted.nbr.nextSweep).toInt ∧
      halted.nbr.records = [] ∧ (halted.radio.timeline.all fun c => c.kind ≠ .refreshListen) = true ∧
      keeping.nbr.records = [kept] ∧ kept.pinned = true ∧
      keeping.req.settings.trailLifetime * 32768 < (tickOf (tick 117964801) - 0).toNat ∧
      (tickOf (tick 117964801) - 1).toNat ≤ keeping.req.settings.trailLifetime * 32768 ∧
      65535 * 32768 ≤ (tickOf (tick 2147450880) - 0).toNat ∧
      keeping.store.queue ++ keeping.store.parked ++ keeping.store.burst = [] ∧
      (keeping.nbr.records.map (·.address)).Nodup ∧ lamp.pinned = false ∧
      ({ lamp with active := false } : Neighbor).active = false ∧
      keeping.req.settings.probationTime * 32768 ≤ (tickOf (tick 3932160) - lamp.admission).toNat ∧
      (tickOf (tick 3932159) - lamp.admission).toNat < keeping.req.settings.probationTime * 32768 ∧
      65535 * 32768 ≤ (tickOf (tick 2147450880) - lamp.admission).toNat := by decide

set_option maxRecDepth 100000 in
/-- The first parent, pinned and ACTIVE, last heard over the refresh age ago, at its next beacon instant. -/
theorem witness_refreshDue (c : Schedule) (h : lamp.schedule = some c) :
    keeping.openTo 0x0456 kept c 393216 ∧ c.beaconExponent ≤ 20 ∧
      (393216 : Tick).toNat % 2 ^ c.beaconExponent = c.phase % 2 ^ c.beaconExponent ∧
      (keeping.route.parents.map (·.address) = [0x0456] ∧ keeping.radio.engine = .running ∧
        keeping.radio.stopPending = false ∧ keeping.radio.timeline = [] ∧ keeping.radio.op = none ∧
        (tickOf (tick 360000) - kept.admission).toNat < 65535 * 32768 ∧ kept.lastTried = none ∧
        keeping.req.settings.refreshAge * 32768 < (tickOf (tick 360000) - 20000).toInt ∧
        kept.tracker.lastSample = some 20000 ∧ (tickOf (tick 360000) - 20000).toInt < keeping.req.settings.holdoverEntry * 32768 ∧
        kept.tracker.remoteNow (tick 360000) = some 360124 ∧ (kept.tracker.predict 393216).isSome = true ∧
        ((393216 : Tick) - (360124 + 64)).toNat < 2 ^ 17) := by
  obtain rfl : _ = c := Option.some.inj h
  unfold State.openTo
  decide

theorem witness_FrameExpiries :
    let f : FrameRec := { ownFrame with deadline := some 100, backoff := some 100 }
    let s : State := { running with store := { parked := [f] } }
    s.store.parked.find? (fun g => g.serial = 0 && g.deadline.any fun d => 0 ≤ (tickOf (tick 100) - d).toInt) = some f ∧
      (tickOf (tick 99) - 100).toInt < 0 ∧ s.port.backlog = [] ∧ f.source = .originated 0 ∧
      ((∃ g ∈ s.store.queue ++ s.store.parked ++ s.store.burst, g.serial = 0) ∧ ∀ g ∈ s.store.queue, g.serial ≠ 0) ∧
      ({ f with source := .relayed 0x0456 0 0 } : FrameRec).source = .relayed 0x0456 0 0 := by decide

/-- Passes: outside RUNNING, over a queued frame without a record, and over a parked frame of `witness_openTo`. -/
theorem witness_pass :
    halted.radio.engine ≠ .running ∧
      (let s : State := { running with store := { queue := [boundFrame] } }
       s.radio.engine = .running ∧ boundFrame.binding = .bound 0x0456 ∧ s.nbr.find 0x0456 = none ∧
         s.store.queue = [boundFrame] ∧ s.store.parked = [] ∧ boundFrame.deadline = none ∧
         s.store.staging ++ s.store.burst = []) ∧
      (let f : FrameRec := { boundFrame with deadline := some 960 }
       let s : State := { queued with store := { parked := [f] } }
       s.radio.engine = .running ∧ f.binding = .bound 0x0456 ∧ lamp.nextRendezvous s.now16 none = some 1536 ∧
         s.store.queue = [] ∧ s.store.parked = [f] ∧ f.deadline = some 960) := by decide

/-! ## Hypotheses met: frames, trackers, routes -/

theorem witness_FramesRoundTrip :
    (0x0001 ≤ data.transmitter.toNat ∧ data.transmitter.toNat ≤ 0xFEFF) ∧
      (({ data with payload := List.replicate 96 0, hopLimit := 15 } : DataFrame).payload.length ≤ 96) ∧
      (1 ≤ data.payload.length ∧ data.hopLimit ≤ 15) ∧
      (-1024 ≤ (ack .go).timingError ∧ (ack .go).timingError ≤ 1024 ∧ (ack .go).grant ≤ 4 ∧ (ack .go).exponent ≤ 255) ∧
      (beacon.number ≤ 255 ∧ 16 ≤ beacon.beaconExponent ∧ beacon.beaconExponent ≤ 23 ∧ 8 ≤ beacon.halfWindow ∧
        beacon.halfWindow ≤ 64 ∧ beacon.channel ≤ 15 ∧ beacon.cost ≤ 4095 ∧ beacon.parent = 0 ∧ 1 ≤ beacon.grant) ∧
      ([1, 2, 3] : List Byte).length = 1 + 2 ∧ leAt [1, 2, 3] 1 2 ≠ (crc16 ([1, 2, 3].take 1)).toNat := by
  decide

theorem witness_TrackerTakesSamples :
    ({ sampleTracker with state := .lapsed } : Tracker).state = .lapsed ∧ Tracker.new.anchor = none ∧
      Tracker.new.state ≠ .lapsed ∧
      (sampleTracker.state ≠ .lapsed ∧ sampleTracker.anchor = some (984576, 80000000) ∧ sampleTracker.state ≠ .holdover) ∧
      ((984576 : Tick) - 984576).toInt ≤ 0 ∧ 0 < ((1050112 : Tick) - 984576).toInt ∧
      ((81048715 : Sixteenth) - (80000000 + BitVec.ofInt 36 (16 * 65536 + (65536 * 300 + 524288) / 1048576))).toInt.natAbs
        ≤ 16 + 65536 * 1678 / 1048576 ∧
      16 + 65536 * 1678 / 1048576 <
        ((81048716 : Sixteenth) - (80000000 + BitVec.ofInt 36 (16 * 65536 + (65536 * 300 + 524288) / 1048576))).toInt.natAbs ∧
      2 ≤ ({ sampleTracker with outliers := 2 } : Tracker).outliers ∧
      ({ sampleTracker with outliers := 1 } : Tracker).outliers < 2 ∧
      ({ sampleTracker with state := .holdover, prevLocked := true } : Tracker).state = .holdover ∧
      (let here : Tick := 1124
       lamp.tracker.remoteNow (tick 1000) = some here ∧ (Tracker.new.remoteNow 0 = none) ∧
         0 ≤ (here - 1124).toInt ∧ (here - 1125).toInt < 0 ∧ 0 ≤ (here + 64 - (1125 + 1)).toInt ∧
         (here + 64 - (2048 + 1)).toInt < 0) ∧
      (lamp.schedule.all fun c => decide (c.exponent ≤ 16 ∧ c.exponent < c.beaconExponent ∧ c.beaconExponent ≤ 20)) = true :=
  by decide

/-- A first parent within the hysteresis, and one that gives way. -/
theorem witness_RouteReviewChoosesParents :
    related.work.oldParents = none ∧ related.nbr.records = [lamp] ∧ (related.nbr.records.map (·.address)).Nodup ∧
      (related.req.settings.gateway = false ∧ lamp.active = true ∧ lamp.tracker.state ≠ .lapsed ∧ lamp.cost < 4095 ∧
        lamp.parent ≠ related.req.settings.ownAddress ∧ lamp.poisoned = false) ∧
      related.review.route.parents = [{ address := 0x0456, cost := 56 }] ∧ halted.review.route.parents = [] ∧
      related.review.route.parents ≠ related.route.parents ∧ halted.review.route.parents = halted.route.parents ∧
      (let s : State := { related with route := {} }
       s.review.route.parents.head?.map (·.address) = some 0x0456 ∧ s.req.settings.noticeMask.getLsbD 0 = true ∧
         s.port.lent = [] ∧ s.req.notices.length < 8) ∧
      (0x3E : BitVec 6).getLsbD 0 = false := by decide

/-! ## Single steps of the manual's worked sequences -/

/-- 10_the_exchange_memory_and_attention.md, "Worked sequence: one write transaction", the first WRITE's end. -/
def worked : State :=
  { halted with port := {
      mem := Memory.writeRun [] 3 [0, 0, 1, 4, 4], backlog := [4], lent := [7], taken := [3]
      txn := some (.writing 8 [3, 4, 5, 6, 7] [3, 4, 5, 6, 7]) } }

set_option maxRecDepth 100000 in
theorem test_worked_write_transaction :
    nextIs (exec (.writeEnd 0) worked) (fun s =>
      (Memory.readRun s.port.mem 3 2 == [2, 0]) && (Memory.readRun s.port.mem 6 2 == [4, 4]) && s.port.flags.mapClash
        && !s.port.flags.mapFault && (s.port.lent == [7, 6]) && (s.port.taken == [3]) && !s.port.backlog.contains 4)
      = true := by decide

/-- 09_radio_port_arbiter_and_operating_states.md, "Worked sequence: a front end that stops answering": the LISTEN for the
beat at 8,000,000 is answered by 8,000,162 or times out at 8,000,163. -/
def silent : State :=
  { running with
    radio := { engine := .running, op := some (op .listen .ownListen 7999968 8000032) }
    recv := { state := .listening, beat := 8000000 } }

set_option maxRecDepth 100000 in
theorem test_first_timeout :
    nextIs (exec (.operationTimeout (tick 8000162)) silent) (fun s => !s.radio.strike) = true ∧
      nextIs (exec (.operationTimeout (tick 8000163)) silent) (fun s =>
        s.radio.strike && s.radio.op.any (·.kind = .resetFrontEnd) && s.port.counters.missedBeats == 1
          && s.radio.engine = .running) = true := by decide

set_option maxRecDepth 100000 in
theorem test_second_timeout :
    nextIs (exec (.operationTimeout (tick 8000163)) { silent with radio := { silent.radio with strike := true } }) (fun s =>
      s.radio.faultLatch && s.radio.engine = .faulted && s.port.attention.reasons.fault && s.port.flags.radioFault
        && s.radio.timeline.isEmpty) = true := by decide

/-- A burst that awaits its ACK, a frame queued behind it, and a SEND left posted in box 3; the stop is pending and the
strike flag set. -/
def stopping : State :=
  { inBurst .burst .awaiting [ownFrame] with
    radio := { engine := .running, strike := true, stopPending := true, op := some (op .listen .ackWait 100 112) }
    store := { queue := [nextFrame], burst := [ownFrame] }
    port := { mem := Memory.writeRun (Memory.write [] 3 1) (bodyAddr 3) [1, 0, 0, 0, 6, 0, 0xFE, 0xFF, 1, 0, 1, 7]
              backlog := [3], taken := [0] } }

set_option maxRecDepth 100000 in
/-- R154, R164, R181: the fault latched with a stop pending leads to HALTED, and the SEND left in place completes
NOT_RUNNING, code 0x08. -/
theorem test_stop_at_the_latch :
    nextIs (exec (.operationTimeout (tick 243)) stopping) (fun s =>
      s.radio.engine = .halted && s.port.backlog.isEmpty && s.port.mem.read (bodyAddr 3 + 1) == 0x08) = true := by decide

set_option maxRecDepth 100000 in
/-- R152, R159: an own listen cuts an open segment, counted to the end its window had, and is issued at its report, which
clears the strike flag (R153). -/
theorem test_cut_segment_answered_first :
    let q := op .listen .segment 50 960
    let l : LongListen := { discovery := false, span := 5000, counted := 0, waiting := false }
    let s : State :=
      { busy q with
        radio := { (busy q).radio with strike := true, timeline := [listenClaim] }, sched := { long := some l } }
    nextIs (exec (.ownListenWindowOpen (tick 968)) s) (fun s =>
        s.radio.op == some (shut q) && s.radio.waiting == some { op .listen .ownListen 968 1032 with channel := listenClaim.channel }
          && s.sched.long == some { l with counted := 910 }) = true ∧
      nextIs (exec (.listenSegmentEnd (tick 970) none) (waitingFor (shut q) (op .listen .ownListen 968 1032))) (fun s =>
        s.radio.op == some (op .listen .ownListen 968 1032) && s.radio.waiting.isNone && !s.radio.strike) = true := by
  decide

set_option maxRecDepth 100000 in
/-- R37: a census ends when its time reaches the span during a reception, which goes on and counts toward no later one. -/
theorem test_census_ends_in_reception :
    let o := receiving (op .listen .segment 50 150)
    let s : State :=
      { busy o with
        radio := { (busy o).radio with timeline := [⟨.census, 0, none, 0, 0, 0, false⟩] }
        sched := { long := some { discovery := false, span := 100, counted := 60, waiting := false } } }
    nextIs (exec (.censusEnd (tick 89)) s) (fun s => s.sched.long.isSome) = true ∧
      nextIs (exec (.censusEnd (tick 90)) s) (fun s =>
        s.sched.long.isNone && s.radio.timeline.isEmpty && s.radio.op == some { o with orphan := true }) = true := by decide

set_option maxRecDepth 100000 in
/-- R156, R157: an own listen ends a refresh listen that is open without a reception, and its claim. -/
theorem test_own_listen_ends_refresh :
    let q := op .listen (.refresh 0x0456) 900 1000
    let v : Claim := { refreshClaim with start := 900, stop := some 1000 }
    nextIs (exec (.ownListenWindowOpen (tick 968)) { busy q with radio := { (busy q).radio with timeline := [v, listenClaim] } })
      (fun s => s.radio.timeline == [listenClaim] && s.recv.state = .listening
        && s.radio.op == some { q with stop := 968, due := 968, cut := true }) = true := by decide

/-- The same chapter, "Worked case: a crowded moment on the timeline": the plan toward P1 is refused by the own listen, which
is granted beside the refresh listen. -/
theorem test_crowded_moment :
    let refresh : Claim := ⟨.refreshListen, 8003967, some 8004013, 0, 7, 0, false⟩
    let own : Claim := ⟨.ownListen, 8004064, some 8004128, 4, 0, 8004096, false⟩
    let sent : Claim := ⟨.otherTransmission, 8004100, some 8004300, 5, 1, 0, false⟩
    ((claimed refresh).request own).1 = true ∧ (((claimed refresh).request own).2.request sent).1 = false := by decide

/-- 01_the_air_exchange.md, "Worked sequence: a full burst": the first DATA of payload 96 ends at 150, its ACK is awaited until
162, and a GO captured at 156 leads to the next DATA at 191. -/
theorem test_full_burst_times :
    (let f := { ownFrame with payload := List.replicate 96 0 }
     ((inBurst .frozen .idle [f]).sendData plan f 0).planner.txEnd = tick 150) ∧
      nextDataStart (tick 156) = tick 191 := by decide

set_option maxRecDepth 100000 in
/-- A sweep forgets the older of two trails at its bound (R96), and asks for the refresh of a parent that is due (R161). -/
theorem test_sweep_of_a_parent :
    nextIs (exec (.neighborSweep (tick 117964801)) keeping) (fun s => s.route.trails.map (·.origin) == [0x0501]) = true ∧
      nextIs (exec (.neighborSweep (tick 360000)) keeping) (fun s =>
        s.radio.timeline.map (fun c => (c.owner, c.instant)) == [(0x0456, 393216)]) = true := by decide

end Sys2Proof.Tests
end

section
/-! PROOFS. The frames on air: the check as a division bit by bit, the rules of the little-endian fields, the layout of
each built frame and its reading back. -/

namespace Sys2Proof.Machine

/-! ## The check, bit by bit (R10) -/

/-- R10's step for one bit of the frame, the most significant bit of the remainder compared with it. -/
def crcFeed (c : BitVec 16) (bit : Bool) : BitVec 16 := if c.msb = bit then c <<< 1 else (c <<< 1) ^^^ 0x1021

/-- The bits of a byte in the order the check takes them, the most significant first. -/
def msbFirst (b : Byte) : List Bool := (List.range 8).map fun i => b.getLsbD (7 - i)

/-- A byte at the high end of the remainder, where `crcByte` adds it. -/
def highByte (b : Byte) : BitVec 16 := b.setWidth 16 <<< 8

theorem highByte_msb (b : Byte) : (highByte b).msb = b.msb := by
  simp [highByte, BitVec.msb_eq_getLsbD_last]

theorem highByte_shiftLeft (b : Byte) : highByte b <<< 1 = highByte (b <<< 1) := by
  apply BitVec.eq_of_toNat_eq
  simp only [highByte, BitVec.toNat_shiftLeft, BitVec.toNat_setWidth, Nat.shiftLeft_eq]
  omega

/-- One step on a remainder with a byte added feeds that byte's top bit and moves up the bits left. -/
theorem crcBit_xor_highByte (c : BitVec 16) (b : Byte) :
    crcBit (c ^^^ highByte b) = crcFeed c b.msb ^^^ highByte (b <<< 1) := by
  have shifted : (c ^^^ highByte b) <<< 1 = (c <<< 1) ^^^ highByte (b <<< 1) := by
    rw [BitVec.shiftLeft_xor_distrib, highByte_shiftLeft]
  unfold crcBit crcFeed
  rw [BitVec.msb_xor, highByte_msb, shifted]
  by_cases same : c.msb = b.msb
  · simp [same]
  · simp only [same, bne_iff_ne.mpr same, if_true, if_false]
    ac_rfl

theorem crcByte_eq_feed (c : BitVec 16) (b : Byte) : crcByte c b = (msbFirst b).foldl crcFeed c := by
  have out : highByte 0#8 = 0 := by decide
  have bits : msbFirst b = [b.msb, (b <<< 1).msb, (b <<< 2).msb, (b <<< 3).msb, (b <<< 4).msb, (b <<< 5).msb,
      (b <<< 6).msb, (b <<< 7).msb] := by
    simp [msbFirst, List.range_succ, BitVec.msb_eq_getLsbD_last]
  change crcBit (crcBit (crcBit (crcBit (crcBit (crcBit (crcBit (crcBit (c ^^^ highByte b)))))))) = _
  simp [crcBit_xor_highByte, bits, ← BitVec.shiftLeft_add, out]

theorem crc16_eq_feed (x : List Byte) : crc16 x = (x.flatMap msbFirst).foldl crcFeed 0xFFFF := by
  rw [List.foldl_flatMap]
  simp only [crc16, ← crcByte_eq_feed]

set_option maxRecDepth 10000 in
/-- R10's reference value: the check of the characters "123456789". -/
theorem crc16_reference : crc16 [0x31, 0x32, 0x33, 0x34, 0x35, 0x36, 0x37, 0x38, 0x39] = 0x29B1 := by decide

/-! ## Little-endian fields -/

theorem leNat_lt (bs : List Byte) : leNat bs < 256 ^ bs.length := by
  induction bs with
  | nil => simp [leNat]
  | cons b bs ih =>
    have := b.isLt
    simp only [leNat, List.length_cons, pow_succ]
    omega

@[simp] theorem length_leBytes (n v : Nat) : (leBytes n v).length = n := by
  induction n generalizing v with
  | zero => rfl
  | succ n ih => simp [leBytes, ih]

theorem leNat_leBytes (n v : Nat) : leNat (leBytes n v) = v % 256 ^ n := by
  induction n generalizing v with
  | zero => simp [leBytes, leNat, Nat.mod_one]
  | succ n ih => simp [leBytes, leNat, ih, pow_succ', Nat.mod_mul]

theorem leAt_lt (bs : List Byte) (off n : Nat) : leAt bs off n < 256 ^ n :=
  (leNat_lt _).trans_le (Nat.pow_le_pow_right (by decide) (List.length_take_le _ _))

theorem toNat_word16 (bs : List Byte) (off : Nat) : (word16 bs off).toNat = leAt bs off 2 := by
  simpa [word16] using leAt_lt bs off 2

theorem toNat_byteAt (bs : List Byte) (i : Nat) : (byteAt bs i).toNat = leAt bs i 1 := by
  induction bs generalizing i with
  | nil => simp [byteAt, leAt, leNat]
  | cons b bs ih =>
    cases i with
    | zero => simp [byteAt, leAt, leNat]
    | succ i => simpa [byteAt, leAt] using ih i

@[simp] theorem leAt_zero_cons (b : Byte) (r : List Byte) : leAt (b :: r) 0 1 = b.toNat := by simp [leAt, leNat]

@[simp] theorem leAt_cons_skip {off : Nat} (h : off ≠ 0) (b : Byte) (n : Nat) (r : List Byte) :
    leAt (b :: r) off n = leAt r (off - 1) n := by
  obtain ⟨k, rfl⟩ := Nat.exists_eq_succ_of_ne_zero h
  simp [leAt]

@[simp] theorem byteAt_zero_cons (b : Byte) (r : List Byte) : byteAt (b :: r) 0 = b := rfl

@[simp] theorem byteAt_cons_skip {i : Nat} (h : i ≠ 0) (b : Byte) (r : List Byte) :
    byteAt (b :: r) i = byteAt r (i - 1) := by
  obtain ⟨k, rfl⟩ := Nat.exists_eq_succ_of_ne_zero h
  simp [byteAt]

theorem leAt_leBytes (n v : Nat) (r : List Byte) : leAt (leBytes n v ++ r) 0 n = v % 256 ^ n := by
  simp [leAt, leNat_leBytes]

@[simp] theorem leAt_leBytes_toNat {n w : Nat} (h : w = 8 * n) (v : BitVec w) (r : List Byte) :
    leAt (leBytes n v.toNat ++ r) 0 n = v.toNat := by
  subst h
  rw [leAt_leBytes, Nat.mod_eq_of_lt]
  simpa [pow_mul] using v.isLt

@[simp] theorem leAt_leBytes_skip {m off : Nat} (h : m ≤ off) (v n : Nat) (r : List Byte) :
    leAt (leBytes m v ++ r) off n = leAt r (off - m) n := by
  rw [leAt, List.drop_append, List.drop_of_length_le (by simpa using h)]
  simp [leAt]

@[simp] theorem byteAt_leBytes_skip {m i : Nat} (h : m ≤ i) (v : Nat) (r : List Byte) :
    byteAt (leBytes m v ++ r) i = byteAt r (i - m) := by
  simp [byteAt, List.getElem?_append_right, h]

theorem word16_of_leAt {bs : List Byte} {off : Nat} {v : BitVec 16} (h : leAt bs off 2 = v.toNat) : word16 bs off = v :=
  BitVec.eq_of_toNat_eq ((toNat_word16 bs off).trans h)

/-! ## Values in range stay as they are (R148, R191) -/

theorem nodeAddr_of_range {a : Addr} (h : 0x0001 ≤ a.toNat ∧ a.toNat ≤ 0xFEFF) : nodeAddr a = true := by
  obtain ⟨low, high⟩ := h
  have nonzero : a ≠ 0 := by rintro rfl; simp at low
  simp only [nodeAddr, nonzero, ne_eq, not_false_eq_true, decide_true, Bool.true_and, decide_eq_true_eq]
  omega

theorem nodeOrNone_of_range {a : Addr} (h : a = 0 ∨ nodeAddr a) : nodeOrNone a = a := by
  rcases h with rfl | node
  · rfl
  · exact if_pos (by simpa [nodeAddr] using node)

theorem clampInt_of_mem {lo hi x : Int} (low : lo ≤ x) (high : x ≤ hi) : clampInt lo hi x = x := by
  simp [clampInt, low.not_gt, high.not_gt]

theorem clampNat_of_mem {lo hi x : Nat} (low : lo ≤ x) (high : x ≤ hi) : clampNat lo hi x = x := by
  simp [clampNat, low.not_gt, high.not_gt]

/-! ## Frames with their check -/

theorem checked_withCheck (bs : List Byte) :
    (withCheck bs).length = bs.length + 2 ∧
      leAt (withCheck bs) bs.length 2 = (crc16 ((withCheck bs).take bs.length)).toNat := by
  have check : leNat ((leBytes 2 (crc16 bs).toNat).take 2) = (crc16 bs).toNat := by
    simpa [leAt] using leAt_leBytes_toNat (n := 2) rfl (crc16 bs) []
  simp [withCheck, leAt, check]

theorem checkGood_iff {x : List Byte} {n : Nat} (length : x.length = n + 2) :
    checkGood x = true ↔ 0 < n ∧ leAt x n 2 = (crc16 (x.take n)).toNat := by
  have same : crc16 (x.take n) = word16 x n ↔ leAt x n 2 = (crc16 (x.take n)).toNat := by
    rw [← BitVec.toNat_inj, toNat_word16, eq_comm]
  simp [checkGood, length, same]

/-- R10, R11: bytes whose last two are not the check of those before them. -/
theorem readFrame_bad_check (x : List Byte) (n : Nat) (length : x.length = n + 2)
    (bad : leAt x n 2 ≠ (crc16 (x.take n)).toNat) : readFrame x = none := by
  have discarded : ¬ checkGood x = true := fun good => bad ((checkGood_iff length).mp good).2
  simp [readFrame, discarded]

/-! ## DATA -/

/-- The DATA frames whose fields are in the ranges the part sends (R2, R3, R6). -/
structure DataFrame.InRange (d : DataFrame) : Prop where
  transmitter : nodeAddr d.transmitter
  nextHop : nodeAddr d.nextHop
  origin : nodeAddr d.origin
  hopLimit : d.hopLimit ≤ 15
  someBytes : 1 ≤ d.payload.length
  atMost96 : d.payload.length ≤ 96

/-- The control byte of a DATA frame: type 1, class, more flag. -/
def dataControl (cls : FrameClass) (more : Bool) : Byte := BitVec.ofNat 8 (1 + 4 * cls.code + if more then 128 else 0)

/-- The bytes of a DATA frame that the check covers. -/
def DataFrame.body (d : DataFrame) : List Byte :=
  dataControl d.cls d.more :: (leBytes 2 d.transmitter.toNat ++ (leBytes 2 d.nextHop.toNat ++
    (leBytes 2 d.origin.toNat ++ (leBytes 2 d.destination.toNat ++
      d.sequence :: BitVec.ofNat 8 (d.hopLimit % 16) :: BitVec.ofNat 8 d.payload.length :: d.payload))))

theorem DataFrame.bytes_eq (d : DataFrame) : d.bytes = withCheck d.body := by
  simp [DataFrame.bytes, DataFrame.body, dataControl]

theorem DataFrame.length_body (d : DataFrame) : d.body.length = 12 + d.payload.length := by
  simp [DataFrame.body]; omega

theorem DataFrame.checked (d : DataFrame) :
    d.bytes.length = 12 + d.payload.length + 2 ∧
      leAt d.bytes (12 + d.payload.length) 2 = (crc16 (d.bytes.take (12 + d.payload.length))).toNat := by
  rw [d.bytes_eq, ← d.length_body]
  exact checked_withCheck d.body

theorem DataFrame.layout (d : DataFrame) :
    let x := d.bytes
    byteAt x 0 = dataControl d.cls d.more ∧ leAt x 1 2 = d.transmitter.toNat ∧ leAt x 3 2 = d.nextHop.toNat ∧
      leAt x 5 2 = d.origin.toNat ∧ leAt x 7 2 = d.destination.toNat ∧ byteAt x 9 = d.sequence ∧
      leAt x 10 1 = d.hopLimit % 16 % 256 ∧ leAt x 11 1 = d.payload.length % 256 ∧
      (x.drop 12).take d.payload.length = d.payload := by
  obtain ⟨check, e⟩ : ∃ check, d.bytes = d.body ++ check := ⟨_, d.bytes_eq⟩
  have payload : (d.body ++ check).drop 12 = d.payload ++ check := by simp [DataFrame.body, leBytes]
  simp only [e, payload, List.take_left]
  simp [DataFrame.body]

theorem dataControl_fields (cls : FrameClass) (more : Bool) :
    let c := dataControl cls more
    (c.extractLsb' 0 2).toNat = 1 ∧ FrameClass.ofCode (c.extractLsb' 2 2).toNat = some cls ∧ c.getLsbD 7 = more ∧
      c.toNat = 1 + 4 * cls.code + 128 * more.toNat := by
  cases cls <;> cases more <;> decide

theorem DataFrame.readFrame_bytes (d : DataFrame) (h : d.InRange) : readFrame d.bytes = some (.data d) := by
  obtain ⟨transmitter, nextHop, origin, hops, someBytes, atMost96⟩ := h
  obtain ⟨c0, w1, w3, w5, w7, b9, l10, l11, payload⟩ := d.layout
  obtain ⟨type, cls, more, -⟩ := dataControl_fields d.cls d.more
  obtain ⟨length, check⟩ := d.checked
  have good : checkGood d.bytes = true := (checkGood_iff length).mpr ⟨by omega, check⟩
  have hops16 : d.hopLimit % 16 % 256 % 16 = d.hopLimit := by omega
  have size : d.payload.length % 256 = d.payload.length := by omega
  have total : d.bytes.length = dataLength d.payload.length := by rw [length, dataLength]; omega
  have reads : readData d.bytes = some d := by
    simp only [readData, c0, cls, more, toNat_byteAt, l10, l11, hops16, size, total, payload, b9, word16_of_leAt w1,
      word16_of_leAt w3, word16_of_leAt w5, word16_of_leAt w7]
    simp [someBytes, atMost96, transmitter, nextHop, origin]
  simp only [readFrame, good, c0, type, reads]
  rfl

/-! ## ACK -/

/-- The ACKs whose fields are in the ranges the part sends (R4, R6, R191). -/
structure AckFrame.InRange (a : AckFrame) : Prop where
  transmitter : nodeAddr a.transmitter
  addressee : nodeAddr a.addressee
  early : -1024 ≤ a.timingError
  late : a.timingError ≤ 1024
  someGrant : 1 ≤ a.grant
  grant4 : a.grant ≤ 4
  exponent : a.exponent ≤ 255

/-- The control byte of an ACK: type 2, kind, flow bit. -/
def ackControl (kind : AckKind) (flow : Flow) : Byte := BitVec.ofNat 8 (2 + 4 * kind.code + 16 * flow.code)

/-- The bytes of an ACK that the check covers. -/
def AckFrame.body (a : AckFrame) : List Byte :=
  ackControl a.kind a.flow :: (leBytes 2 a.transmitter.toNat ++ (leBytes 2 a.addressee.toNat ++
    a.sequence :: (leBytes 2 (BitVec.ofInt 16 a.timingError).toNat ++
      [BitVec.ofNat 8 a.grant, BitVec.ofNat 8 a.exponent, a.epoch])))

theorem AckFrame.bytes_eq (a : AckFrame) : a.bytes = withCheck a.body := by
  simp [AckFrame.bytes, AckFrame.body, ackControl, leInt16]

theorem AckFrame.length_body (a : AckFrame) : a.body.length = 11 := by simp [AckFrame.body]

theorem AckFrame.checked (a : AckFrame) :
    a.bytes.length = 11 + 2 ∧ leAt a.bytes 11 2 = (crc16 (a.bytes.take 11)).toNat := by
  rw [a.bytes_eq, ← a.length_body]
  exact checked_withCheck a.body

theorem AckFrame.layout (a : AckFrame) :
    let x := a.bytes
    byteAt x 0 = ackControl a.kind a.flow ∧ leAt x 1 2 = a.transmitter.toNat ∧ leAt x 3 2 = a.addressee.toNat ∧
      byteAt x 5 = a.sequence ∧ leAt x 6 2 = (BitVec.ofInt 16 a.timingError).toNat ∧ leAt x 8 1 = a.grant % 256 ∧
      leAt x 9 1 = a.exponent % 256 ∧ byteAt x 10 = a.epoch := by
  obtain ⟨check, e⟩ : ∃ check, a.bytes = a.body ++ check := ⟨_, a.bytes_eq⟩
  simp [e, AckFrame.body, -BitVec.toNat_ofInt]

theorem ackControl_fields (kind : AckKind) (flow : Flow) :
    let c := ackControl kind flow
    (c.extractLsb' 0 2).toNat = 2 ∧ AckKind.ofCode (c.extractLsb' 2 2).toNat = kind ∧ Flow.ofBit (c.getLsbD 4) = flow ∧
      c.toNat = 2 + 4 * kind.code + if flow = .hold then 16 else 0 := by
  cases kind <;> cases flow <;> decide

theorem AckFrame.toInt_timingError (a : AckFrame) (h : a.InRange) :
    (word16 a.bytes 6).toInt = a.timingError := by
  obtain ⟨-, -, -, -, w6, -⟩ := a.layout
  obtain ⟨-, -, early, late, -⟩ := h
  rw [word16_of_leAt w6, BitVec.toInt_ofInt]
  exact Int.bmod_eq_of_le (by omega) (by omega)

theorem AckFrame.readFrame_bytes (a : AckFrame) (h : a.InRange) : readFrame a.bytes = some (.ack a) := by
  obtain ⟨c0, w1, w3, b5, -, l8, l9, b10⟩ := a.layout
  obtain ⟨type, kind, flow, -⟩ := ackControl_fields a.kind a.flow
  obtain ⟨length, check⟩ := a.checked
  have good : checkGood a.bytes = true := (checkGood_iff length).mpr ⟨by omega, check⟩
  have timing := a.toInt_timingError h
  obtain ⟨transmitter, addressee, early, late, someGrant, grant4, exponent⟩ := h
  have grantByte : a.grant % 256 = a.grant := by omega
  have exponentByte : a.exponent % 256 = a.exponent := by omega
  have reads : readAck a.bytes = some a := by
    simp only [readAck, c0, kind, flow, toNat_byteAt, l8, l9, grantByte, exponentByte, b5, b10, length,
      word16_of_leAt w1, word16_of_leAt w3, timing, clampInt_of_mem early late, clampNat_of_mem someGrant grant4]
    simp [transmitter, addressee, ackLength]
  simp only [readFrame, good, c0, type, reads]
  rfl

/-! ## BEACON -/

/-- The BEACONs whose fields are in the ranges the part sends (R5, R6, R191). -/
structure BeaconFrame.InRange (b : BeaconFrame) : Prop where
  transmitter : nodeAddr b.transmitter
  number : b.number ≤ 255
  exponent : b.exponent ≤ 255
  beacon16 : 16 ≤ b.beaconExponent
  beacon23 : b.beaconExponent ≤ 23
  phase : b.phase ≤ 255
  window8 : 8 ≤ b.halfWindow
  window64 : b.halfWindow ≤ 64
  channel : b.channel ≤ 15
  cost : b.cost ≤ 4095
  parent : b.parent = 0 ∨ nodeAddr b.parent
  someGrant : 1 ≤ b.grant
  grant4 : b.grant ≤ 4
  applyNumber : b.applyNumber ≤ 255

/-- The control byte of a BEACON: type 3, flow bit, grant. -/
def beaconControl (flow : Flow) (grant : Nat) : Byte := BitVec.ofNat 8 (3 + 16 * flow.code + 32 * ((grant - 1) % 4))

/-- The byte of a BEACON that holds the beat channel and the beacon exponent. -/
def BeaconFrame.channelByte (b : BeaconFrame) : Byte :=
  BitVec.ofNat 8 (b.channel % 16 + 16 * ((b.beaconExponent - 16) % 8))

/-- The bytes of a BEACON that the check covers. -/
def BeaconFrame.body (b : BeaconFrame) : List Byte :=
  beaconControl b.flow b.grant :: (leBytes 2 b.transmitter.toNat ++ (leBytes 2 allAddr.toNat ++
    (leBytes 4 b.timestamp.toNat ++ BitVec.ofNat 8 b.number :: BitVec.ofNat 8 b.exponent :: b.channelByte ::
      BitVec.ofNat 8 b.phase :: BitVec.ofNat 8 b.halfWindow :: (leBytes 2 b.cost ++ (leBytes 2 b.parent.toNat ++
        (leBytes 2 b.mask.toNat ++ b.epoch :: (leBytes 2 b.pendingMask.toNat ++ [BitVec.ofNat 8 b.applyNumber])))))))

theorem BeaconFrame.bytes_eq (b : BeaconFrame) : b.bytes = withCheck b.body := by
  simp [BeaconFrame.bytes, BeaconFrame.body, beaconControl, BeaconFrame.channelByte]

theorem BeaconFrame.length_body (b : BeaconFrame) : b.body.length = 24 := by simp [BeaconFrame.body]

theorem BeaconFrame.checked (b : BeaconFrame) :
    b.bytes.length = 24 + 2 ∧ leAt b.bytes 24 2 = (crc16 (b.bytes.take 24)).toNat := by
  rw [b.bytes_eq, ← b.length_body]
  exact checked_withCheck b.body

theorem BeaconFrame.layout (b : BeaconFrame) :
    let x := b.bytes
    byteAt x 0 = beaconControl b.flow b.grant ∧ leAt x 1 2 = b.transmitter.toNat ∧ leAt x 3 2 = allAddr.toNat ∧
      leAt x 5 4 = b.timestamp.toNat ∧ leAt x 9 1 = b.number % 256 ∧ leAt x 10 1 = b.exponent % 256 ∧
      byteAt x 11 = b.channelByte ∧ leAt x 12 1 = b.phase % 256 ∧ leAt x 13 1 = b.halfWindow % 256 ∧
      leAt x 14 2 = b.cost % 65536 ∧ leAt x 16 2 = b.parent.toNat ∧ leAt x 18 2 = b.mask.toNat ∧ byteAt x 20 = b.epoch ∧
      leAt x 21 2 = b.pendingMask.toNat ∧ leAt x 23 1 = b.applyNumber % 256 := by
  obtain ⟨check, e⟩ : ∃ check, b.bytes = b.body ++ check := ⟨_, b.bytes_eq⟩
  simp [e, BeaconFrame.body, leAt_leBytes 2 b.cost]

theorem beaconControl_fields (flow : Flow) {grant : Nat} (low : 1 ≤ grant) (high : grant ≤ 4) :
    let c := beaconControl flow grant
    (c.extractLsb' 0 2).toNat = 3 ∧ Flow.ofBit (c.getLsbD 4) = flow ∧ (c.extractLsb' 5 2).toNat + 1 = grant ∧
      c.toNat = 3 + (if flow = .hold then 16 else 0) + 32 * (grant - 1) := by
  cases flow <;> interval_cases grant <;> decide

theorem BeaconFrame.channelByte_fields (b : BeaconFrame) (h : b.InRange) :
    (b.channelByte.extractLsb' 0 4).toNat = b.channel ∧ 16 + (b.channelByte.extractLsb' 4 3).toNat = b.beaconExponent ∧
      b.channelByte.toNat = b.channel + 16 * (b.beaconExponent - 16) := by
  obtain ⟨-, -, -, low, high, -, -, -, channel, -⟩ := h
  simp [BeaconFrame.channelByte, Nat.shiftRight_eq_div_pow]
  omega

theorem BeaconFrame.readFrame_bytes (b : BeaconFrame) (h : b.InRange) : readFrame b.bytes = some (.beacon b) := by
  obtain ⟨c0, w1, w3, l5, l9, l10, c11, l12, l13, l14, w16, w18, b20, w21, l23⟩ := b.layout
  obtain ⟨type, flow, grant, -⟩ := beaconControl_fields b.flow h.someGrant h.grant4
  obtain ⟨channelBits, exponentBits, -⟩ := b.channelByte_fields h
  obtain ⟨length, check⟩ := b.checked
  obtain ⟨transmitter, number, exponent, -, -, phase, window8, window64, -, cost, parent, -, -, applyNumber⟩ := h
  have good : checkGood b.bytes = true := (checkGood_iff length).mpr ⟨by omega, check⟩
  rw [Nat.mod_eq_of_lt (by omega)] at l9 l10 l12 l13 l14 l23
  have reads : readBeacon b.bytes = some b := by
    simp only [readBeacon, c0, c11, flow, grant, channelBits, exponentBits, toNat_byteAt, l5, l9, l10, l12, l13, l14,
      l23, b20, length, word16_of_leAt w1, word16_of_leAt w3, word16_of_leAt w16, word16_of_leAt w18,
      word16_of_leAt w21, clampNat_of_mem window8 window64, nodeOrNone_of_range parent, min_eq_right cost]
    simp [transmitter, beaconLength]
  simp only [readFrame, good, c0, type, reads]
  rfl

/-! ## The statement -/

/-- Settles O58: the check by `crc16_eq_feed` and `readFrame_bad_check`, each frame by its `layout` and
`readFrame_bytes`. -/
theorem framesRoundTrip : Obligations.FramesRoundTrip := by
  refine ⟨⟨crc16_eq_feed, crc16_reference, readFrame_bad_check⟩, ?data, ?ack, ?beacon⟩
  case data =>
    intro d transmitter nextHop origin hops someBytes atMost96
    have h : d.InRange := ⟨nodeAddr_of_range transmitter, nodeAddr_of_range nextHop, nodeAddr_of_range origin, hops,
      someBytes, atMost96⟩
    obtain ⟨c0, w1, w3, w5, w7, b9, l10, l11, payload⟩ := d.layout
    obtain ⟨-, -, -, control⟩ := dataControl_fields d.cls d.more
    exact ⟨d.readFrame_bytes h, by rw [← toNat_byteAt, c0, control]; rfl, w1, w3, w5, w7, b9, by omega, by omega,
      payload, d.checked⟩
  case ack =>
    intro a transmitter addressee early late someGrant grant4 exponent
    have h : a.InRange := ⟨nodeAddr_of_range transmitter, nodeAddr_of_range addressee, early, late, someGrant, grant4,
      exponent⟩
    obtain ⟨c0, w1, w3, b5, -, l8, l9, b10⟩ := a.layout
    obtain ⟨-, -, -, control⟩ := ackControl_fields a.kind a.flow
    exact ⟨a.readFrame_bytes h, by rw [← toNat_byteAt, c0, control]; rfl, w1, w3, b5, a.toInt_timingError h,
      by omega, by omega, b10, a.checked⟩
  case beacon =>
    intro b transmitter number exponent beacon16 beacon23 phase window8 window64 channel cost parent someGrant grant4
      applyNumber
    have h : b.InRange := ⟨nodeAddr_of_range transmitter, number, exponent, beacon16, beacon23, phase, window8,
      window64, channel, cost, parent.imp_right nodeAddr_of_range, someGrant, grant4, applyNumber⟩
    obtain ⟨c0, w1, w3, l5, l9, l10, c11, l12, l13, l14, w16, w18, b20, w21, l23⟩ := b.layout
    obtain ⟨-, -, -, control⟩ := beaconControl_fields b.flow someGrant grant4
    obtain ⟨-, -, channelByte⟩ := b.channelByte_fields h
    exact ⟨b.readFrame_bytes h, by rw [← toNat_byteAt, c0, control], w1, w3, l5, by omega, by omega,
      by rw [← toNat_byteAt, c11, channelByte], by omega, by omega, by omega, w16, w18, b20, w21, by omega, b.checked⟩

end Sys2Proof.Machine
end

section
/-! PROOFS. The answer to a duplicate DATA (R115): what the relay decision does where the address tests pass, and what
the lesson and the loop check leave alone after it. -/

namespace Sys2Proof.Machine

/-! ## Counting (R175) -/

theorem bump_eq_min (n : Nat) : bump n = min 65535 (n + 1) := by
  unfold bump satInc
  split <;> omega

/-! ## What a notice leaves alone (R188, R189) -/

theorem State.completion_counters (s : State) (alarm : Bool) :
    (s.completion alarm).port.counters = s.port.counters := by
  unfold State.completion State.attentionTest State.latchPage
  simp only []
  repeat' split
  all_goals simp only [State.attend, Port.writePage]

theorem State.fillBox_counters (s : State) (b : Box) (r : List Byte) (alarm : Bool) :
    (s.fillBox b r alarm).port.counters = s.port.counters := by
  unfold State.fillBox
  rw [State.completion_counters]
  rfl

/-- A notice changes the port and the request unit alone. -/
theorem State.notify_port (s : State) (e : NoticeEvent) : ∃ p q, s.notify e = { s with port := p, req := q } := by
  unfold State.notify
  split
  · split
    · exact State.fillBox_port _ _ _ _
    · exact s.queueNotice_port _
  · exact ⟨_, _, rfl⟩

@[simp] theorem State.notify_store (s : State) (e : NoticeEvent) : (s.notify e).store = s.store := by
  obtain ⟨p, q, changed⟩ := s.notify_port e
  rw [changed]

/-- The notices lost are the one count a notice can raise. -/
@[simp] theorem State.notify_duplicates (s : State) (e : NoticeEvent) :
    (s.notify e).port.counters.duplicates = s.port.counters.duplicates := by
  unfold State.notify
  split
  · split
    · unfold State.writeNotice
      rw [State.fillBox_counters]
    · unfold State.queueNotice
      split <;> rfl
  · rfl

/-! ## What is handed on leaves alone (R91, R95, R145) -/

@[simp] theorem State.reportTarget_store (s : State) : s.reportTarget.store = s.store := rfl
@[simp] theorem State.reportTarget_port (s : State) : s.reportTarget.port = s.port := rfl

@[simp] theorem State.review_store (s : State) : s.review.store = s.store := by
  unfold State.review
  simp only []
  repeat' split
  all_goals simp

@[simp] theorem State.review_duplicates (s : State) :
    s.review.port.counters.duplicates = s.port.counters.duplicates := by
  unfold State.review
  simp only []
  repeat' split
  all_goals simp

@[simp] theorem State.trailLesson_store (s : State) (o n : Addr) : (s.trailLesson o n).store = s.store := by
  unfold State.trailLesson
  split <;> rfl

@[simp] theorem State.trailLesson_port (s : State) (o n : Addr) : (s.trailLesson o n).port = s.port := by
  unfold State.trailLesson
  split <;> rfl

@[simp] theorem State.loopCheck_store (s : State) (a : Addr) : (s.loopCheck a).store = s.store := by
  unfold State.loopCheck
  split <;> simp

@[simp] theorem State.loopCheck_duplicates (s : State) (a : Addr) :
    (s.loopCheck a).port.counters.duplicates = s.port.counters.duplicates := by
  unfold State.loopCheck
  split <;> simp

@[simp] theorem State.handOn_store (s : State) (d : DataFrame) (dir : Direction) :
    (s.handOn d dir).store = s.store := by
  unfold State.handOn
  simp only []
  repeat' split
  all_goals simp

@[simp] theorem State.handOn_duplicates (s : State) (d : DataFrame) (dir : Direction) :
    (s.handOn d dir).port.counters.duplicates = s.port.counters.duplicates := by
  unfold State.handOn
  simp only []
  repeat' split
  all_goals simp

/-! ## The address tests (R140) -/

theorem State.ignores_eq_false {s : State} {d : DataFrame} :
    s.ignores d = false ↔ d.nextHop = s.own ∧ d.transmitter ≠ s.own ∧ d.transmitter ∉ s.nbr.bars := by
  simp [State.ignores, and_assoc]

theorem State.resolveNode_ne_invalid (s : State) (a : Addr) (excluded : Option Addr) :
    s.resolveNode a excluded ≠ .invalid := by
  unfold State.resolveNode
  repeat' split
  all_goals nofun

/-- Whether a destination resolves depends on the address alone (R98). -/
theorem State.resolve_eq_invalid {s : State} {a : Addr} {excluded : Option Addr} :
    s.resolve a excluded = .invalid ↔ a ≠ uplinkAddr ∧ ¬nodeAddr a := by
  unfold State.resolve
  repeat' split
  all_goals simp_all [State.resolveNode_ne_invalid]

/-- The relay decision on a DATA that passes the tests of R140: settled on the state that has taken its signal, then
handed on. -/
theorem State.relay_of_heard {s : State} {d : DataFrame} (f : RxFrame) (hop : d.nextHop = s.own)
    (other : d.transmitter ≠ s.own) (unbarred : d.transmitter ∉ s.nbr.bars)
    (resolves : s.resolve d.destination (some d.transmitter) ≠ .invalid) :
    let heard := s.takeSignal d.transmitter f.signal
    let dir := heard.resolve d.destination (some d.transmitter)
    s.relay d f = (some (heard.settleData d f dir).1, (heard.settleData d f dir).2.handOn d dir) := by
  intro heard dir
  have taken : heard.ignores d = false := State.ignores_eq_false.mpr ⟨hop, other, unbarred⟩
  have valid : dir ≠ .invalid := fun h => resolves (State.resolve_eq_invalid.mpr (State.resolve_eq_invalid.mp h))
  unfold State.relay
  rw [if_neg (Bool.eq_false_iff.mp taken)]
  split
  · contradiction
  · rfl

/-! ## The settlement of a duplicate (R115, R141) -/

theorem Store.knows_iff {st : Store} {o : Addr} {q : Byte} : st.knows o q = true ↔ (o, q) ∈ st.recent := by
  simp [Store.knows]

theorem State.settleData_of_known {s : State} {d : DataFrame} (f : RxFrame) (dir : Direction)
    (known : (d.origin, d.sequence) ∈ s.store.recent) :
    s.settleData d f dir = (s.ownAnswer, s.count fun c => { c with duplicates := bump c.duplicates }) := by
  unfold State.settleData
  rw [if_pos (Store.knows_iff.mpr known)]
  rfl

theorem State.exponentInUse_eq (s : State) :
    s.exponentInUse =
      if s.sched.supplyMode = .normal then s.settings.beatExponent else min (s.settings.beatExponent + 2) 16 := by
  unfold State.exponentInUse
  split <;> simp_all

/-- The answer of the own flow state, field by field (R141, R146). -/
theorem State.ownAnswer_eq (s : State) :
    s.ownAnswer =
      { kind := if s.store.flow = .go then .go else .hold
        flow := s.store.flow
        grant := if s.store.flow = .go then s.settings.burstLimit else 1
        exponent :=
          if s.sched.supplyMode = .normal then s.settings.beatExponent else min (s.settings.beatExponent + 2) 16
        epoch := s.sched.epoch } := by
  unfold State.ownAnswer State.answer
  rw [State.exponentInUse_eq]
  cases s.store.flow <;> rfl

/-! ## The statement -/

/-- Settles O40: `relay_of_heard` gives the settlement, `settleData_of_known` makes it the own answer and one more
count, and what is handed on after it touches neither the store nor that count. -/
theorem duplicateAnswered : Obligations.DuplicateAnswered := by
  intro d f s hop other unbarred resolves known
  have listed : (d.origin, d.sequence) ∈ (s.takeSignal d.transmitter f.signal).store.recent := known
  rw [State.relay_of_heard f hop other unbarred resolves, State.settleData_of_known f _ listed]
  refine ⟨?answer, ?store, ?count⟩
  case answer => exact congrArg some (State.ownAnswer_eq _)
  case store => exact State.handOn_store _ _ _
  case count => exact (State.handOn_duplicates _ _ _).trans (bump_eq_min _)

end Sys2Proof.Machine
end
